-- ==== Sys2Proof/Word.lean ====
section
/-! DEFINITION. The data word of the core: one IEEE-754 binary64 datum (00_scope.md R30), and the bytes
and names of source text. -/

namespace Sys2Proof

/-- One byte of source text (30_encoding.md R300 to R302). -/
abbrev Byte := BitVec 8

/-- A name: the bytes of an identifier (30_encoding.md R318). -/
abbrev Ident := List Byte

/-- One binary64 datum (R30): NaN, an infinity, or a finite number given by its sign, its biased exponent
(0 to 2046) and its 52 fraction bits, so `+0.0` and `-0.0` are two data. There is ONE NaN: its sign and
payload are unspecified and no instruction can observe them (40_arith.md R401; DESIGN CHOICE, safe, log 1). -/
inductive F64 where
  | nan
  | inf (neg : Bool)
  | fin (neg : Bool) (biased : Fin 2047) (frac : BitVec 52)
  deriving DecidableEq, Repr, Inhabited

namespace F64

/-- The zero with the given sign. -/
def zeroOf (neg : Bool) : F64 := .fin neg 0 0

/-- `+0.0`, the reset value of every cell (70_reset_and_hazards.md R1210). -/
def zero : F64 := zeroOf false

/-- `1.0`, which a true comparison writes (42_compare.md R600). -/
def one : F64 := .fin false 1023 0

end F64

/-- The bytes of ASCII characters. -/
def ascii (cs : List Char) : List Byte := cs.map fun c => BitVec.ofNat 8 c.toNat

/-- The bytes of an ASCII string. -/
def bytes (s : String) : List Byte := ascii s.toList

end Sys2Proof
end

