-- ==== Sys2Proof/Machine/Float.lean ====
section
/-! DEFINITION. IEEE-754 binary64 arithmetic on data (00_scope.md R30; 40_arith.md R401): every operation
computes the exact result on integers and rounds once, to nearest with ties to even. Every finite datum is an
integral multiple of 2^-1074, the UNIT below. -/

namespace Sys2Proof.F64

/-- 2^1074: how many units make 1.0. -/
@[irreducible] def unitsPerOne : Nat := 2 ^ 1074

/-- The datum with the given 64-bit interchange encoding; every NaN encoding gives the one NaN. -/
def ofBits (b : BitVec 64) : F64 :=
  let neg := b.getLsbD 63
  let e := (b.toNat / 2 ^ 52) % 2048
  let f := BitVec.ofNat 52 b.toNat
  if h : e < 2047 then .fin neg ⟨e, h⟩ f else if f = 0 then .inf neg else .nan

/-- The significand as an integer: 53 bits for a normal number, fewer for a subnormal. -/
def sig (biased : Fin 2047) (frac : BitVec 52) : Nat :=
  if biased.val = 0 then frac.toNat else 2 ^ 52 + frac.toNat

/-- The power of two, counted from the unit 2^-1074, that the significand is multiplied by. -/
def scale (biased : Fin 2047) : Nat := biased.val - 1

/-- The magnitude of a finite datum in units of 2^-1074. -/
def units (biased : Fin 2047) (frac : BitVec 52) : Nat := sig biased frac * 2 ^ scale biased

/-- The signed value of a finite datum in units of 2^-1074. -/
def signedUnits (neg : Bool) (biased : Fin 2047) (frac : BitVec 52) : Int :=
  if neg then -(units biased frac : Int) else (units biased frac : Int)

/-- The datum whose magnitude has the given exponent-and-fraction bits, read as one number: infinite from
`2047 * 2^52` on. -/
def ofMagnitude (neg : Bool) (m : Nat) : F64 :=
  if 2047 * 2 ^ 52 ≤ m then .inf neg
  else .fin neg (Fin.ofNat 2047 (m / 2 ^ 52)) (BitVec.ofNat 52 m)

/-- The binary64 datum nearest to `n / d` units (`0 < d`), ties to even, with the given sign (R30, R401):
`t` is the quotient in multiples of 2^j units that has at most 53 bits, rounded by the remainder. -/
def roundUnits (neg : Bool) (n d : Nat) : F64 :=
  let j := (n / d).log2 - 52
  let ulp := d * 2 ^ j
  let t := n / ulp
  let r := n % ulp
  let up := if ulp < 2 * r then 1 else if 2 * r = ulp then t % 2 else 0
  ofMagnitude neg (j * 2 ^ 52 + (t + up))

/-- The datum nearest to the rational `n / d` (`0 < d`). -/
def ofRatio (neg : Bool) (n d : Nat) : F64 := roundUnits neg (n * unitsPerOne) d

/-- The datum nearest to an integer; exact up to magnitude 2^53. -/
def ofInt (i : Int) : F64 := ofRatio (decide (i < 0)) i.natAbs 1

/-- The datum nearest to a natural number. -/
def ofNat (n : Nat) : F64 := ofRatio false n 1

def isNaN : F64 → Bool
  | .nan => true
  | _ => false

def isInf : F64 → Bool
  | .inf _ => true
  | _ => false

/-- The sign bit (false for the NaN, whose sign is unspecified). -/
def signBit : F64 → Bool
  | .nan => false
  | .inf neg => neg
  | .fin neg _ _ => neg

/-- The same datum with the other sign. -/
def neg : F64 → F64
  | .nan => .nan
  | .inf s => .inf !s
  | .fin s e f => .fin (!s) e f

/-- The magnitude: the sign cleared (40_arith.md R408). -/
def abs : F64 → F64
  | .nan => .nan
  | .inf _ => .inf false
  | .fin _ e f => .fin false e f

/-! ### Comparison (42_compare.md R600) -/

/-- The place of a datum in the order of the extended reals, in units; none for NaN. Both zeros stand at 0. -/
def place : F64 → Option Int
  | .nan => none
  | .inf s => some (if s then -((2 ^ 2100 : Nat) : Int) else ((2 ^ 2100 : Nat) : Int))
  | .fin s e f => some (signedUnits s e f)

/-- IEEE `==`: false with a NaN operand, and `-0 == +0`. -/
def eq (a b : F64) : Bool :=
  match place a, place b with
  | some x, some y => decide (x = y)
  | _, _ => false

/-- IEEE `<`: false with a NaN operand. -/
def lt (a b : F64) : Bool :=
  match place a, place b with
  | some x, some y => decide (x < y)
  | _, _ => false

/-- IEEE `<=`: false with a NaN operand. -/
def le (a b : F64) : Bool :=
  match place a, place b with
  | some x, some y => decide (x ≤ y)
  | _, _ => false

/-- IEEE `!=`: true with a NaN operand. -/
def ne (a b : F64) : Bool := !eq a b

/-- IEEE `>`. -/
def gt (a b : F64) : Bool := lt b a

/-- IEEE `>=`. -/
def ge (a b : F64) : Bool := le b a

/-! ### Addition, multiplication, division (40_arith.md R403 to R407) -/

/-- Addition (R403): opposite infinities give NaN; an exact zero sum is `-0` only for two negative operands. -/
def add : F64 → F64 → F64
  | .nan, _ => .nan
  | _, .nan => .nan
  | .inf s, .inf t => if s = t then .inf s else .nan
  | .inf s, .fin _ _ _ => .inf s
  | .fin _ _ _, .inf t => .inf t
  | .fin s e f, .fin t g h =>
    let z := signedUnits s e f + signedUnits t g h
    if z = 0 then zeroOf (s && t) else roundUnits (decide (z < 0)) z.natAbs 1

/-- Subtraction (R404): the sum with the negated second operand. -/
def sub (a b : F64) : F64 := add a (neg b)

/-- Multiplication (R405): zero times infinity gives NaN; the sign is the exclusive or of the signs. -/
def mul : F64 → F64 → F64
  | .nan, _ => .nan
  | _, .nan => .nan
  | .inf s, .inf t => .inf (s ^^ t)
  | .inf s, .fin t e f => if units e f = 0 then .nan else .inf (s ^^ t)
  | .fin s e f, .inf t => if units e f = 0 then .nan else .inf (s ^^ t)
  | .fin s e f, .fin t g h => roundUnits (s ^^ t) (units e f * units g h) unitsPerOne

/-- Division (R406): a non-zero number over zero gives an infinity, zero over zero and infinity over infinity
give NaN; nothing is raised. -/
def div : F64 → F64 → F64
  | .nan, _ => .nan
  | _, .nan => .nan
  | .inf _, .inf _ => .nan
  | .inf s, .fin t _ _ => .inf (s ^^ t)
  | .fin s _ _, .inf t => zeroOf (s ^^ t)
  | .fin s e f, .fin t g h =>
    if units g h = 0 then
      if units e f = 0 then .nan else .inf (s ^^ t)
    else roundUnits (s ^^ t) (units e f * unitsPerOne) (units g h)

/-- The exact remainder with the quotient truncated toward zero; it has the sign of the dividend (R407). -/
def fmod : F64 → F64 → F64
  | .nan, _ => .nan
  | _, .nan => .nan
  | .inf _, _ => .nan
  | .fin s e f, .inf _ => .fin s e f
  | .fin s e f, .fin _ g h =>
    if units g h = 0 then .nan else roundUnits s (units e f % units g h) 1

/-- `mod` (R407): `fmod`, plus the divisor if that is negative. -/
def mod (a b : F64) : F64 :=
  let m := fmod a b
  if lt m zero then add m b else m

/-! ### Square root (40_arith.md R409) -/

/-- The integer square root by bits: the largest `c` below `r + 2^k` that keeps `c * c` at or below `n`. -/
def isqrtFrom (n : Nat) : Nat → Nat → Nat
  | 0, r => r
  | k + 1, r => if (r + 2 ^ k) * (r + 2 ^ k) ≤ n then isqrtFrom n k (r + 2 ^ k) else isqrtFrom n k r

/-- The integer square root. -/
def isqrt (n : Nat) : Nat := isqrtFrom n (n.log2 / 2 + 1) 0

/-- The correctly rounded root of `m * 2^k` units: `m` is made `m' * 4^56` with an even power of two left over,
and an inexact integer root `r` stands for `r + 1/2`, which rounds as the real root does, because the root has
more than 54 bits. -/
def sqrtUnits (m k : Nat) : F64 :=
  let e := k + 1074
  let n := m * 2 ^ (e % 2) * 4 ^ 56
  let r := isqrt n
  let half := e / 2 - 57
  if r * r = n then roundUnits false (2 * r * 2 ^ half) 1 else roundUnits false ((2 * r + 1) * 2 ^ half) 1

/-- Square root (R409): `sqrt(-0) = -0`, a negative operand gives NaN. -/
def sqrt : F64 → F64
  | .nan => .nan
  | .inf s => if s then .nan else .inf false
  | .fin s e f =>
    if units e f = 0 then zeroOf s else if s then .nan else sqrtUnits (sig e f) (scale e)

/-! ### Rounding to an integral value (40_arith.md R410 to R413) -/

/-- A direction of rounding to an integral value. -/
inductive Dir where
  | up | down | toZero | halfAway | halfEven
  deriving DecidableEq, Repr

/-- Whether a magnitude `whole + rest / unitsPerOne` (`rest` below `unitsPerOne`) goes up to `whole + 1`. -/
def bumps (d : Dir) (neg : Bool) (whole rest : Nat) : Bool :=
  match d with
  | .up => !neg && decide (0 < rest)
  | .down => neg && decide (0 < rest)
  | .toZero => false
  | .halfAway => decide (unitsPerOne ≤ 2 * rest)
  | .halfEven => decide (unitsPerOne < 2 * rest) || (decide (2 * rest = unitsPerOne) && decide (whole % 2 = 1))

/-- Round to an integral value; the sign is kept, so `ceil(-0.5)` is `-0` (R410). -/
def roundToIntegral (d : Dir) : F64 → F64
  | .nan => .nan
  | .inf s => .inf s
  | .fin s e f =>
    let whole := units e f / unitsPerOne
    let rest := units e f % unitsPerOne
    ofRatio s (if bumps d s whole rest then whole + 1 else whole) 1

/-- `trunc(v)` of a finite datum as an integer, toward zero (00_scope.md R33); none for NaN and the infinities. -/
def truncInt : F64 → Option Int
  | .nan => none
  | .inf _ => none
  | .fin s e f =>
    let whole : Int := (units e f / unitsPerOne : Nat)
    some (if s then -whole else whole)

/-! ### Minimum and maximum (40_arith.md R423, R424) -/

/-- IEEE-754-2019 `maximum` (R423): NaN propagates and `+0` is above `-0`. -/
def max (a b : F64) : F64 :=
  if isNaN a || isNaN b then .nan
  else if gt a b then a
  else if gt b a then b
  else if a = zero ∨ b = zero then abs a else a

/-- IEEE-754-2019 `minimum` (R424). -/
def min (a b : F64) : F64 :=
  if isNaN a || isNaN b then .nan
  else if lt a b then a
  else if lt b a then b
  else if a = zeroOf true ∨ b = zeroOf true then zeroOf true else a

/-- `b2f` (00_scope.md R33): `1.0` for true, `+0.0` for false. -/
def ofBool (c : Bool) : F64 := if c then one else zero

/-! ### Constants (30_encoding.md R318) -/

/-- The datum nearest to pi. -/
def pi : F64 := ofBits 0x400921FB54442D18#64

/-- The datum nearest to pi/2, 1.5707963267948966. -/
def halfPi : F64 := ofBits 0x3FF921FB54442D18#64

/-- The datum nearest to pi/4, 0.7853981633974483. -/
def quarterPi : F64 := ofBits 0x3FE921FB54442D18#64

/-- The datum nearest to pi/180, 0.017453292519943295. -/
def degToRad : F64 := ofBits 0x3F91DF46A2529D39#64

/-- The datum nearest to 180/pi, 57.29577951308232. -/
def radToDeg : F64 := ofBits 0x404CA5DC1A63C1F8#64

end Sys2Proof.F64
end

