-- ==== Sys2Proof/Config.lean ====
section
/-! DEFINITION. What an implementation fixes (00_scope.md R10 to R23) and the free values: opaque constants
with no body, of which nothing can be proved beyond their type. -/

namespace Sys2Proof

/-! ### Fixed sizes -/

/-- `NGPR` (R10). -/
abbrev nGpr : Nat := 18

/-- `STACK_CAPACITY` (R11). -/
abbrev stackCapacity : Nat := 512

/-- `NPIN` (R12). -/
abbrev nPin : Nat := 6

/-! ### Parameters -/

/-- `BITWISE_MODEL` (R17). -/
inductive BitwiseModel where
  | i64 | i53
  deriving DecidableEq, Repr

/-- `ROUND_HALF` (R18). -/
inductive RoundHalf where
  | away | even
  deriving DecidableEq, Repr

/-- `END_OF_PROGRAM` (R19). -/
inductive EndOfProgram where
  | fault | ends
  deriving DecidableEq, Repr

/-- The name sets the operand parser accepts as keys (R21). -/
structure KeyNames where
  logicTypes : List Ident
  slotLogicTypes : List Ident
  reagentModes : List Ident
  deriving DecidableEq, Repr

/-- The parameters of the core (R13 to R19, R21 to R23). They are arguments of the model; since a step takes
only a State, they stand in State, and no step writes them (DESIGN CHOICE, safe, log 3). -/
structure Params where
  /-- `SP_RA_ALIASED` (R16). -/
  spRaAliased : Bool
  /-- `BITWISE_MODEL` (R17). -/
  bitwise : BitwiseModel
  /-- `ROUND_HALF` (R18). -/
  roundHalf : RoundHalf
  /-- `END_OF_PROGRAM` (R19). -/
  endOfProgram : EndOfProgram
  /-- `TICK_BUDGET` (R13), positive. -/
  tickBudget : Nat
  /-- `MAX_INDIRECTION` (R14). -/
  maxIndirection : Nat
  /-- `APPROX_EPS` (R15), positive. -/
  approxEps : F64
  /-- `LogicTypeNames`, `SlotLogicTypeNames`, `ReagentModeNames` (R21). -/
  keyNames : KeyNames
  /-- `MAX_LINES` (R22), positive; none for unbounded. -/
  maxLines : Option Nat
  /-- `DB_MEMORY_ALIASES_STACK` (R23). -/
  dbMemoryIsStack : Bool
  deriving DecidableEq, Repr

/-! ### The host's answers (43_device.md R700, R701) -/

/-- An opaque reference to a device (00_scope.md glossary). -/
abbrev Handle := Nat

/-- The failures of the device port (R700). -/
inductive DevFail where
  | invalidLogicType | permissionDenied
  deriving DecidableEq, Repr, Inhabited

/-- The host's answer to a read. -/
inductive ReadAnswer where
  | value (v : F64)
  | fails (f : DevFail)
  deriving DecidableEq, Repr, Inhabited

/-- The host's answer to a write. -/
inductive WriteAnswer where
  | done
  | fails (f : DevFail)
  deriving DecidableEq, Repr, Inhabited

/-- A draw of `rand` (40_arith.md R425): a binary64 with `0 <= u < 1`, which is exactly a datum without a sign and with
a biased exponent below 1023, or `-0` (log 12). -/
structure Draw where
  biased : Fin 1023
  frac : BitVec 52
  /-- The zero drawn is `-0`; without meaning for a draw that is not zero. -/
  negZero : Bool
  deriving DecidableEq, Repr, Inhabited

/-- The value of a draw. -/
def Draw.value (d : Draw) : F64 :=
  .fin (d.negZero && d.biased == 0 && d.frac == 0) ⟨d.biased.val, by have := d.biased.isLt; omega⟩ d.frac

namespace Config

/-! ### OPEN parameters: opaque (log 3) -/

opaque tickBudgetLessOne : Nat
opaque maxIndirection : Nat
opaque approxEpsRank : Fin 0x7FF0000000000000
opaque keyNames : List Ident × List Ident × List Ident
opaque maxLinesLessOne : Option Nat
opaque dbMemoryIsStack : Bool

/-! ### Free answers of the host: the answer to the n-th call that no tape answers (log 6) -/

opaque freeHandle : Nat → Option Handle
opaque freeHandles : Nat → List Handle
opaque freeRead : Nat → ReadAnswer
opaque freeWrite : Nat → WriteAnswer
opaque freeDraw : Nat → Draw

/-! ### `MathLib` (R20): free functions, used where 40_arith.md R402 and R422 state no value (log 5) -/

opaque sin : F64 → F64
opaque cos : F64 → F64
opaque tan : F64 → F64
opaque asin : F64 → F64
opaque acos : F64 → F64
opaque atan : F64 → F64
opaque exp : F64 → F64
opaque log : F64 → F64
opaque atan2 : F64 → F64 → F64

/-- `APPROX_EPS`: any positive datum, by its rank among them. -/
def approxEps : F64 := F64.ofMagnitude false (approxEpsRank.val + 1)

/-- The parameters at power-on: the spec's default where R16 to R19 give one, else an opaque constant
(DESIGN CHOICE, safe, log 3). -/
def params : Params where
  spRaAliased := false
  bitwise := .i64
  roundHalf := .away
  endOfProgram := .fault
  tickBudget := tickBudgetLessOne + 1
  maxIndirection := maxIndirection
  approxEps := approxEps
  keyNames := ⟨keyNames.1, keyNames.2.1, keyNames.2.2⟩
  maxLines := maxLinesLessOne.map (· + 1)
  dbMemoryIsStack := dbMemoryIsStack

end Config

end Sys2Proof
end

