-- ==== Sys2Proof/Machine/MathLib.lean ====
section
/-! DEFINITION. `MathLib` (00_scope.md R20): the transcendental functions of 40_arith.md. Each has the special
values of R402, and `atan2` those R422 gives it; everywhere else it is an opaque function of Config, because R20 lets a
model assume nothing more (DESIGN CHOICE, log 5). -/

namespace Sys2Proof.F64

/-- Whether a datum is one of the two zeros. -/
def isZero (v : F64) : Bool := eq v zero

/-- Sine (R402, R416). -/
def sin (v : F64) : F64 :=
  if isNaN v || isInf v then .nan else if isZero v then v else Config.sin v

/-- Cosine (R402, R417). -/
def cos (v : F64) : F64 :=
  if isNaN v || isInf v then .nan else if isZero v then one else Config.cos v

/-- Tangent (R402, R418; log 5). -/
def tan (v : F64) : F64 :=
  if isNaN v || isInf v then .nan else if isZero v then v else Config.tan v

/-- Arc sine (R402, R419; log 5). -/
def asin (v : F64) : F64 :=
  if isNaN v || gt (abs v) one then .nan else if isZero v then v else Config.asin v

/-- Arc cosine (R402, R420; log 5). -/
def acos (v : F64) : F64 :=
  if isNaN v || gt (abs v) one then .nan else if v = one then zero else Config.acos v

/-- Arc tangent (R402, R421; log 5). -/
def atan (v : F64) : F64 :=
  match v with
  | .nan => .nan
  | .inf s => if s then neg halfPi else halfPi
  | .fin _ _ _ => if isZero v then v else Config.atan v

/-- The exponential (R402, R414; log 5). -/
def exp (v : F64) : F64 :=
  match v with
  | .nan => .nan
  | .inf s => if s then zero else .inf false
  | .fin _ _ _ => if isZero v then one else Config.exp v

/-- The natural logarithm (R402, R415). -/
def log (v : F64) : F64 :=
  if isNaN v then .nan
  else if isZero v then .inf true
  else if lt v zero then .nan
  else if isInf v then .inf false
  else if v = one then zero
  else Config.log v

/-- The angle of the point with ordinate `y` and abscissa `x` (R402, R422), with the values R422 states (log 5). -/
def atan2 (y x : F64) : F64 :=
  if isNaN y || isNaN x then .nan
  else if y = zero ∧ x = neg one then pi
  else if y = zeroOf true ∧ x = neg one then neg pi
  else if y = one ∧ x = zero then halfPi
  else if y = zero ∧ x = zero then zero
  else if y = one ∧ x = one then quarterPi
  else Config.atan2 y x

end Sys2Proof.F64
end

