-- ==== Sys2Proof/Syntax.lean ====
section
/-! DEFINITION. The decoded instruction (30_encoding.md R310 to R314): operand descriptors, one type for each
slot kind, and one constructor of Instr for each row of spec/opcode_table.json. -/

namespace Sys2Proof

/-- A register descriptor `Reg(n, k)` (R313): `k` is the indirection depth, 0 for `sp` and `ra`. -/
inductive Reg where
  | gpr (n : Fin 18) (depth : Nat)
  | sp
  | ra
  deriving DecidableEq, Repr

/-- One of the seven pins (R12, R131). -/
inductive Pin where
  | d (p : Fin 6)
  | db
  deriving DecidableEq, Repr

/-- A pin descriptor (R313): `Pin(p)`, `Pin(DB)`, or `PinInd(n, k)` with depth `k >= 1`. -/
inductive PinRef where
  | direct (p : Pin)
  | ind (n : Fin 18) (depth : Nat)
  deriving DecidableEq, Repr

/-- What a REG slot accepts (R314). -/
inductive RegOp where
  | reg (r : Reg)
  | name (s : Ident)
  deriving DecidableEq, Repr

/-- What a VAL slot accepts (R314). -/
inductive ValOp where
  | reg (r : Reg)
  | num (v : F64)
  | name (s : Ident)
  deriving DecidableEq, Repr

/-- What a PIN slot accepts (R314). -/
inductive PinOp where
  | pin (p : PinRef)
  | name (s : Ident)
  deriving DecidableEq, Repr

/-- What an LT, SLT or RM slot accepts (R314): a key name, or anything a VAL slot accepts. -/
inductive KeyOp where
  | key (s : Ident)
  | val (v : ValOp)
  deriving DecidableEq, Repr

/-- A batch mode (R313). -/
inductive BatchMode where
  | average | sum | minimum | maximum
  deriving DecidableEq, Repr

/-- What a BM slot accepts (R314). -/
inductive ModeOp where
  | mode (m : BatchMode)
  | val (v : ValOp)
  deriving DecidableEq, Repr

/-- What a TARGET slot accepts, and what the `alias` table binds (R132, R314). -/
inductive Target where
  | reg (r : Reg)
  | pin (p : PinRef)
  deriving DecidableEq, Repr

/-- An operand descriptor of the decoded record (R313), whatever its slot. -/
inductive Operand where
  | reg (r : Reg)
  | pin (p : PinRef)
  | num (v : F64)
  | name (s : Ident)
  | key (s : Ident)
  | mode (m : BatchMode)
  | newName (s : Ident)
  deriving DecidableEq, Repr

/-- An instruction: the opcode and its operands in textual order, one constructor for each row of the opcode
table (R312, R350). `nop` is the empty line, `aliasOp` the mnemonic `alias`. -/
inductive Instr where
  -- Arithmetic, math, move and select (40_arith.md).
  | abs (r : RegOp) (a : ValOp)
  | acos (r : RegOp) (a : ValOp)
  | add (r : RegOp) (a : ValOp) (b : ValOp)
  | asin (r : RegOp) (a : ValOp)
  | atan (r : RegOp) (a : ValOp)
  | atan2 (r : RegOp) (a : ValOp) (b : ValOp)
  | ceil (r : RegOp) (a : ValOp)
  | cos (r : RegOp) (a : ValOp)
  | div (r : RegOp) (a : ValOp) (b : ValOp)
  | exp (r : RegOp) (a : ValOp)
  | floor (r : RegOp) (a : ValOp)
  | log (r : RegOp) (a : ValOp)
  | max (r : RegOp) (a : ValOp) (b : ValOp)
  | min (r : RegOp) (a : ValOp) (b : ValOp)
  | mod (r : RegOp) (a : ValOp) (b : ValOp)
  | move (r : RegOp) (a : ValOp)
  | mul (r : RegOp) (a : ValOp) (b : ValOp)
  | rand (r : RegOp)
  | round (r : RegOp) (a : ValOp)
  | select (r : RegOp) (a : ValOp) (b : ValOp) (c : ValOp)
  | sin (r : RegOp) (a : ValOp)
  | sqrt (r : RegOp) (a : ValOp)
  | sub (r : RegOp) (a : ValOp) (b : ValOp)
  | tan (r : RegOp) (a : ValOp)
  | trunc (r : RegOp) (a : ValOp)
  -- Bitwise and shifts (41_bitwise.md).
  | and (r : RegOp) (a : ValOp) (b : ValOp)
  | nor (r : RegOp) (a : ValOp) (b : ValOp)
  | not (r : RegOp) (a : ValOp)
  | or (r : RegOp) (a : ValOp) (b : ValOp)
  | sla (r : RegOp) (a : ValOp) (b : ValOp)
  | sll (r : RegOp) (a : ValOp) (b : ValOp)
  | sra (r : RegOp) (a : ValOp) (b : ValOp)
  | srl (r : RegOp) (a : ValOp) (b : ValOp)
  | xor (r : RegOp) (a : ValOp) (b : ValOp)
  -- Set on compare, approximate compare, NaN tests (42_compare.md).
  | sap (r : RegOp) (a : ValOp) (b : ValOp) (c : ValOp)
  | sapz (r : RegOp) (a : ValOp) (b : ValOp)
  | seq (r : RegOp) (a : ValOp) (b : ValOp)
  | seqz (r : RegOp) (a : ValOp)
  | sge (r : RegOp) (a : ValOp) (b : ValOp)
  | sgez (r : RegOp) (a : ValOp)
  | sgt (r : RegOp) (a : ValOp) (b : ValOp)
  | sgtz (r : RegOp) (a : ValOp)
  | sle (r : RegOp) (a : ValOp) (b : ValOp)
  | slez (r : RegOp) (a : ValOp)
  | slt (r : RegOp) (a : ValOp) (b : ValOp)
  | sltz (r : RegOp) (a : ValOp)
  | sna (r : RegOp) (a : ValOp) (b : ValOp) (c : ValOp)
  | snan (r : RegOp) (a : ValOp)
  | snanz (r : RegOp) (a : ValOp)
  | snaz (r : RegOp) (a : ValOp) (b : ValOp)
  | sne (r : RegOp) (a : ValOp) (b : ValOp)
  | snez (r : RegOp) (a : ValOp)
  -- Device input and output, network batch (43_device.md).
  | clr (d : PinOp)
  | clrd (id : ValOp)
  | get (r : RegOp) (d : PinOp) (addr : ValOp)
  | getd (r : RegOp) (id : ValOp) (addr : ValOp)
  | l (r : RegOp) (d : PinOp) (key : KeyOp)
  | lb (r : RegOp) (hash : ValOp) (key : KeyOp) (mode : ModeOp)
  | lbn (r : RegOp) (hash : ValOp) (name : ValOp) (key : KeyOp) (mode : ModeOp)
  | lbns (r : RegOp) (hash : ValOp) (name : ValOp) (slot : ValOp) (key : KeyOp) (mode : ModeOp)
  | lbs (r : RegOp) (hash : ValOp) (slot : ValOp) (key : KeyOp) (mode : ModeOp)
  | ld (r : RegOp) (id : ValOp) (key : KeyOp)
  | lr (r : RegOp) (d : PinOp) (key : KeyOp) (a : ValOp)
  | ls (r : RegOp) (d : PinOp) (slot : ValOp) (key : KeyOp)
  | put (d : PinOp) (addr : ValOp) (a : ValOp)
  | putd (id : ValOp) (addr : ValOp) (a : ValOp)
  | s (d : PinOp) (key : KeyOp) (a : ValOp)
  | sb (hash : ValOp) (key : KeyOp) (a : ValOp)
  | sbn (hash : ValOp) (name : ValOp) (key : KeyOp) (a : ValOp)
  | sbs (hash : ValOp) (slot : ValOp) (key : KeyOp) (a : ValOp)
  | sd (id : ValOp) (key : KeyOp) (a : ValOp)
  | sdns (r : RegOp) (d : PinOp)
  | sdse (r : RegOp) (d : PinOp)
  | ss (d : PinOp) (slot : ValOp) (key : KeyOp) (a : ValOp)
  -- Stack (44_stack.md).
  | peek (r : RegOp)
  | poke (a : ValOp) (b : ValOp)
  | pop (r : RegOp)
  | push (a : ValOp)
  -- Jumps, calls and branches (45_control.md).
  | bap (a : ValOp) (b : ValOp) (c : ValOp) (e : ValOp)
  | bapal (a : ValOp) (b : ValOp) (c : ValOp) (e : ValOp)
  | bapz (a : ValOp) (b : ValOp) (c : ValOp)
  | bapzal (a : ValOp) (b : ValOp) (c : ValOp)
  | bdns (d : PinOp) (a : ValOp)
  | bdnsal (d : PinOp) (a : ValOp)
  | bdse (d : PinOp) (a : ValOp)
  | bdseal (d : PinOp) (a : ValOp)
  | beq (a : ValOp) (b : ValOp) (c : ValOp)
  | beqal (a : ValOp) (b : ValOp) (c : ValOp)
  | beqz (a : ValOp) (b : ValOp)
  | beqzal (a : ValOp) (b : ValOp)
  | bge (a : ValOp) (b : ValOp) (c : ValOp)
  | bgeal (a : ValOp) (b : ValOp) (c : ValOp)
  | bgez (a : ValOp) (b : ValOp)
  | bgezal (a : ValOp) (b : ValOp)
  | bgt (a : ValOp) (b : ValOp) (c : ValOp)
  | bgtal (a : ValOp) (b : ValOp) (c : ValOp)
  | bgtz (a : ValOp) (b : ValOp)
  | bgtzal (a : ValOp) (b : ValOp)
  | ble (a : ValOp) (b : ValOp) (c : ValOp)
  | bleal (a : ValOp) (b : ValOp) (c : ValOp)
  | blez (a : ValOp) (b : ValOp)
  | blezal (a : ValOp) (b : ValOp)
  | blt (a : ValOp) (b : ValOp) (c : ValOp)
  | bltal (a : ValOp) (b : ValOp) (c : ValOp)
  | bltz (a : ValOp) (b : ValOp)
  | bltzal (a : ValOp) (b : ValOp)
  | bna (a : ValOp) (b : ValOp) (c : ValOp) (e : ValOp)
  | bnaal (a : ValOp) (b : ValOp) (c : ValOp) (e : ValOp)
  | bnan (a : ValOp) (b : ValOp)
  | bnaz (a : ValOp) (b : ValOp) (c : ValOp)
  | bnazal (a : ValOp) (b : ValOp) (c : ValOp)
  | bne (a : ValOp) (b : ValOp) (c : ValOp)
  | bneal (a : ValOp) (b : ValOp) (c : ValOp)
  | bnez (a : ValOp) (b : ValOp)
  | bnezal (a : ValOp) (b : ValOp)
  | brap (a : ValOp) (b : ValOp) (c : ValOp) (e : ValOp)
  | brapz (a : ValOp) (b : ValOp) (c : ValOp)
  | brdns (d : PinOp) (a : ValOp)
  | brdse (d : PinOp) (a : ValOp)
  | breq (a : ValOp) (b : ValOp) (c : ValOp)
  | breqz (a : ValOp) (b : ValOp)
  | brge (a : ValOp) (b : ValOp) (c : ValOp)
  | brgez (a : ValOp) (b : ValOp)
  | brgt (a : ValOp) (b : ValOp) (c : ValOp)
  | brgtz (a : ValOp) (b : ValOp)
  | brle (a : ValOp) (b : ValOp) (c : ValOp)
  | brlez (a : ValOp) (b : ValOp)
  | brlt (a : ValOp) (b : ValOp) (c : ValOp)
  | brltz (a : ValOp) (b : ValOp)
  | brna (a : ValOp) (b : ValOp) (c : ValOp) (e : ValOp)
  | brnan (a : ValOp) (b : ValOp)
  | brnaz (a : ValOp) (b : ValOp) (c : ValOp)
  | brne (a : ValOp) (b : ValOp) (c : ValOp)
  | brnez (a : ValOp) (b : ValOp)
  | j (a : ValOp)
  | jal (a : ValOp)
  | jr (a : ValOp)
  -- No-operation, scheduling, halt, symbol binding (46_system.md).
  | nop
  | aliasOp (str : Ident) (target : Target)
  | define (str : Ident) (num : F64)
  | hcf
  | label (d : PinOp) (str : Ident)
  | sleep (a : ValOp)
  | yield
  deriving DecidableEq, Repr

/-- The parse-time errors (60_exceptions.md R1101). -/
inductive ParseKind where
  | unknownInstruction | arityMismatch | unresolvedName | malformedOperand | duplicateLabel
  deriving DecidableEq, Repr

/-- What a name of a program is bound as, over the whole program (30_encoding.md R333). -/
inductive Category where
  | aliasToReg | aliasToPin | constant | label
  deriving DecidableEq, Repr

/-- What a source line is (30_encoding.md R303): empty, a label line, or an instruction with the columns of its
operand tokens. -/
inductive Line where
  | empty
  | label (name : Ident) (col : Nat)
  | op (i : Instr) (cols : List Nat)
  deriving DecidableEq, Repr

end Sys2Proof
end

