-- ==== Sys2Proof/Machine/State.lean ====
section
/-! DEFINITION. The state of the core as plain data (10_state.md), the reasons a step can stop, and the
power-on state (70_reset_and_hazards.md R1212). -/

namespace Sys2Proof.Machine

/-! ### Errors (60_exceptions.md R1101) -/

/-- The run-time errors; every one is fatal. -/
inductive RunError where
  | stackOverflow | stackUnderflow | invalidRegisterIndex | invalidIndirectionDepth | deviceNotFound
  | invalidLogicType | invalidProgramCounter | permissionDenied | unresolvedName | halt
  deriving DecidableEq, Repr

/-- The error record (R142): the kind, its code, and the line of the instruction that raised it. -/
structure ErrorRecord where
  kind : RunError
  code : Nat
  line : Nat
  deriving DecidableEq, Repr

/-- What a refused load returns (R336, R1102): the kind, its code, and the place of the offending token. -/
structure ParseError where
  kind : ParseKind
  code : Nat
  line : Nat
  col : Nat
  deriving DecidableEq, Repr

/-- Why a step stops without a next state. -/
inductive Fault where
  /-- Raised by operand resolution when a name is bound, but to a thing its slot does not accept. R333 refuses at
  load every program in which that could happen, so no loaded program reaches it. Safe: the spec gives such an
  operand no meaning (log 14). -/
  | nameCategory
  deriving DecidableEq, Repr

/-- Why an instruction has no meaning. -/
inductive Refusal where
  /-- Raised by `exec` for an instruction without a meaning; no arm of `exec` does so. Safe. -/
  | notModelled (mnemonic : String)
  deriving DecidableEq, Repr

/-! ### Program, status, tables -/

/-- A decoded record of the program store (R310); the tag and the operand descriptors are `instr.tag` and
`instr.operands`. -/
structure Record where
  instr : Instr
  line : Nat
  cols : List Nat
  deriving DecidableEq, Repr

/-- The core status (R140). -/
inductive Status where
  | noProgram
  | ready
  | yielded
  | sleeping (t : F64)
  | crashed
  deriving DecidableEq, Repr

/-- The stack cells that do not hold `+0.0`, as pairs of an address and a value with rising addresses (R201;
DESIGN CHOICE of form, safe, log 16). -/
abbrev Memory := List (Nat × F64)

/-- The alias table (R132). -/
abbrev AliasTable := List (Ident × Target)

/-- The define table (R133). -/
abbrev DefineTable := List (Ident × F64)

/-- The label table (R134). -/
abbrev LabelTable := List (Ident × Nat)

/-- A register cell a descriptor can name (R322). -/
inductive Cell where
  | x (i : Fin 18)
  | sp
  | ra
  deriving DecidableEq, Repr

/-! ### The device port -/

/-- A property key (R325): an opaque name, or a number. -/
inductive Key where
  | named (s : Ident)
  | numeric (v : F64)
  deriving DecidableEq, Repr

/-- A call of the device port (43_device.md R700, R701). -/
inductive DevCall where
  | resolvePin (p : Pin)
  | resolveId (id : F64)
  | resolveHash (typeHash : F64) (nameHash : Option F64)
  | read (h : Handle) (k : Key)
  | write (h : Handle) (k : Key) (v : F64)
  | readSlot (h : Handle) (slot : F64) (k : Key)
  | writeSlot (h : Handle) (slot : F64) (k : Key) (v : F64)
  | readMem (h : Handle) (addr : F64)
  | writeMem (h : Handle) (addr : F64) (v : F64)
  | clearMem (h : Handle)
  | readReagent (h : Handle) (mode : Key) (hash : F64)
  deriving DecidableEq, Repr

/-- The host's bindings of the seven pins (R131). -/
structure Pins where
  d : Vector (Option Handle) 6
  db : Option Handle
  deriving DecidableEq, Repr

/-- The device port and the other inputs the host gives during a step. A tape holds the host's coming answers to
one kind of call; when it is empty the answer is free (log 6). -/
structure Port where
  pins : Pins
  pinTape : List (Option Handle)
  idTape : List (Option Handle)
  setTape : List (List Handle)
  readTape : List ReadAnswer
  writeTape : List WriteAnswer
  drawTape : List Draw
  /-- How many free answers have been used. -/
  asked : Nat
  /-- The calls made so far, newest first (log 11). -/
  calls : List DevCall
  deriving DecidableEq, Repr

/-! ### The host's commands -/

/-- The persistable snapshot (R146). -/
structure Snapshot where
  x : Vector F64 18
  sp : F64
  ra : F64
  pc : Nat
  stack : Memory
  aliases : AliasTable
  defines : DefineTable
  deriving DecidableEq, Repr

/-- What the host can do to the core between ticks (R8, R131, R1214). The last two are accesses of another circuit to
this circuit's housing memory, which reach the stack only under `DB_MEMORY_ALIASES_STACK` (R201; log 8). -/
inductive Command where
  | runTick (now : F64)
  | reset
  | load (source : List Byte)
  | bind (p : Pin) (h : Option Handle)
  | restore (snap : Snapshot)
  | housingWrite (addr : F64) (v : F64)
  | housingClear
  deriving DecidableEq, Repr

/-! ### The state -/

structure State where
  /-- The parameters (00_scope.md R13 to R23); never written (log 3). -/
  params : Params
  /-- `r0` to `r17` (R100). -/
  x : Vector F64 18
  /-- `sp` (R101), when it is a cell of its own (R103). -/
  sp : F64
  /-- `ra` (R102), when it is a cell of its own (R103). -/
  ra : F64
  /-- The program counter (R110). -/
  pc : Nat
  /-- The next-pc latch (R111). -/
  npc : Option Nat
  /-- The stack cells (R201). -/
  stack : Memory
  /-- The alias table (R132). -/
  aliases : AliasTable
  /-- The define table (R133). -/
  defines : DefineTable
  /-- The label table (R134). -/
  labels : LabelTable
  /-- The program store (R135); none when no program is installed. -/
  program : Option (List Record)
  /-- The core status (R140). -/
  status : Status
  /-- The crashed flag (R141). -/
  crashed : Bool
  /-- The error record (R142). -/
  error : Option ErrorRecord
  /-- The tick instruction counter (R143). -/
  ic : Nat
  /-- The resume time (R144). -/
  resume : Option F64
  /-- The time argument of the `run_tick` under way (R1200, R1202). -/
  now : F64
  /-- The parse error the last load returned (R340). -/
  loadError : Option ParseError
  /-- Whether a `run_tick` is under way (the model's own, log 17). -/
  inTick : Bool
  /-- The host's pending commands, next first (the model's own, log 17). -/
  commands : List Command
  /-- The device port (R8, R131, R700). -/
  port : Port
  deriving DecidableEq, Repr

/-- No pin is bound (R1212). -/
def Pins.unbound : Pins := ⟨Vector.replicate 6 none, none⟩

/-- The device port at power-on: no pin bound, no answer given or waiting. -/
def Port.powerOn : Port := ⟨Pins.unbound, [], [], [], [], [], [], 0, []⟩

/-- A core after reset with no program installed, which is the power-on state (R1210, R1211, R1212). -/
def State.reset : State where
  params := Config.params
  x := Vector.replicate 18 F64.zero
  sp := F64.zero
  ra := F64.zero
  pc := 0
  npc := none
  stack := []
  aliases := []
  defines := []
  labels := []
  program := none
  status := .noProgram
  crashed := false
  error := none
  ic := 0
  resume := none
  now := F64.zero
  loadError := none
  inTick := false
  commands := []
  port := Port.powerOn

end Sys2Proof.Machine
end

