-- ==== Sys2Proof/Machine/Ops.lean ====
section
/-! DEFINITION. The named operations over registers, stack memory, tables and the status: every read and write of
a piece of state goes through one of them, and so do taking a run-time error (60_exceptions.md R1110) and the
reset that leaves it (70_reset_and_hazards.md R1210). -/

namespace Sys2Proof.Machine

/-! ### Registers -/

/-- The cell a register name stands for: with `SP_RA_ALIASED`, `sp` is `x[16]` and `ra` is `x[17]` (R103). -/
def State.home (s : State) : Cell → Cell
  | .x i => .x i
  | .sp => if s.params.spRaAliased then .x 16 else .sp
  | .ra => if s.params.spRaAliased then .x 17 else .ra

/-- Read a register cell (R100 to R103). -/
def State.readCell (s : State) (c : Cell) : F64 :=
  match s.home c with
  | .x i => s.x.get i
  | .sp => s.sp
  | .ra => s.ra

/-- Write a register cell (R100 to R103). -/
def State.writeCell (s : State) (c : Cell) (v : F64) : State :=
  match s.home c with
  | .x i => { s with x := s.x.set i.val v i.isLt }
  | .sp => { s with sp := v }
  | .ra => { s with ra := v }

/-! ### Stack memory -/

/-- What a cell that is not listed holds: `+0.0`, its reset value (R201). -/
def Memory.unlisted : F64 := F64.zero

/-- `MemRead(a, 1)` (R210). -/
def Memory.read (m : Memory) (a : Nat) : F64 :=
  match m with
  | [] => Memory.unlisted
  | (b, w) :: rest => if a = b then w else Memory.read rest a

/-- `MemWrite(a, 1, v)` (R210): keeps the addresses rising, and lists no cell that holds `+0.0`. -/
def Memory.write (m : Memory) (a : Nat) (v : F64) : Memory :=
  match m with
  | [] => if v = Memory.unlisted then [] else [(a, v)]
  | (b, w) :: rest =>
    if a < b then (if v = Memory.unlisted then (b, w) :: rest else (a, v) :: (b, w) :: rest)
    else if a = b then (if v = Memory.unlisted then rest else (a, v) :: rest)
    else (b, w) :: Memory.write rest a v

/-- Rising addresses from `low` on, all below the capacity, and no listed `+0.0`. -/
def Memory.wfFrom : Nat → Memory → Bool
  | _, [] => true
  | low, (a, v) :: rest =>
    decide (low ≤ a) && decide (a < stackCapacity) && decide (v ≠ Memory.unlisted) && Memory.wfFrom (a + 1) rest

/-- The canonical form of the stack memory. -/
def Memory.wf (m : Memory) : Bool := Memory.wfFrom 0 m

/-- Write the given cells in order into a stack memory; a cell outside the stack is left out. -/
def Memory.writeCells (m : Memory) : List (Nat × F64) → Memory
  | [] => m
  | (a, v) :: rest => Memory.writeCells (if a < stackCapacity then m.write a v else m) rest

/-! ### Symbol tables -/

/-- Bind a name in a table, in its old place if it has one (R1010). -/
def bindIn {α : Type} (table : List (Ident × α)) (name : Ident) (v : α) : List (Ident × α) :=
  match table with
  | [] => [(name, v)]
  | (n, w) :: rest => if n = name then (name, v) :: rest else (n, w) :: bindIn rest name v

/-- Bind the given names in order in a table. -/
def bindAll {α : Type} (table : List (Ident × α)) : List (Ident × α) → List (Ident × α)
  | [] => table
  | (n, v) :: rest => bindAll (bindIn table n v) rest

/-- What a table binds a name to. -/
def lookupIn {α : Type} (table : List (Ident × α)) (name : Ident) : Option α :=
  match table with
  | [] => none
  | (n, w) :: rest => if n = name then some w else lookupIn rest name

/-- `LEN`, the number of lines of the installed program (R110). -/
def State.len (s : State) : Nat :=
  match s.program with
  | some p => p.length
  | none => 0

/-- The record at the program counter, if it is inside the program (R150). -/
def State.fetch (s : State) : Option Record :=
  match s.program with
  | some p => p[s.pc]?
  | none => none

/-! ### Instructions as computations -/

/-- Why an instruction does not complete: it raises a run-time error, or the model stops. -/
inductive Exn where
  | raised (e : RunError)
  | stopped (f : Fault)
  deriving DecidableEq, Repr

/-- What an instruction does to the state, or why it does not complete. -/
abbrev M := EStateM Exn State

/-- A computation that only reads the state. -/
def look {α : Type} (f : State → Except Exn α) : M α := fun s =>
  match f s with
  | .ok a => .ok a s
  | .error e => .error e s

/-- `raise E` (00_scope.md R35); the information it carries is not kept (R1102; log 15). -/
def raise {α : Type} (e : RunError) : M α := fun s => .error (.raised e) s

/-- Change the state. -/
def update (f : State → State) : M Unit := fun s => .ok () (f s)

/-- `D(r?) <- v` on a resolved cell (R322). -/
def setCell (c : Cell) (v : F64) : M Unit := update (·.writeCell c v)

/-- `MemWrite(a, 1, v)` on the stack (R210). -/
def setStack (a : Nat) (v : F64) : M Unit := update fun s => { s with stack := s.stack.write a v }

/-- `npc <- t` (R111). -/
def setNpc (t : Nat) : M Unit := update fun s => { s with npc := some t }

/-! ### Values as indices -/

/-- `toIdx(v, E)` (R120). -/
def toIdx (v : F64) (e : RunError) : Except Exn Int :=
  match F64.truncInt v with
  | some i => .ok i
  | none => .error (.raised e)

/-- `stackAddr(v)` (R211). -/
def stackAddr (v : F64) : Except Exn Nat :=
  match toIdx v .stackUnderflow with
  | .error e => .error e
  | .ok a =>
    if a < 0 then .error (.raised .stackUnderflow)
    else if (stackCapacity : Int) ≤ a then .error (.raised .stackOverflow)
    else .ok a.toNat

/-- A jump target (45_control.md R901): inside the program, or InvalidProgramCounter. -/
def State.target (s : State) (v : F64) : Except Exn Nat :=
  match toIdx v .invalidProgramCounter with
  | .error e => .error e
  | .ok t => if t < 0 ∨ (s.len : Int) ≤ t then .error (.raised .invalidProgramCounter) else .ok t.toNat

/-! ### Run-time errors and reset -/

/-- The code of a run-time error (60_exceptions.md R1101). -/
def RunError.code : RunError → Nat
  | .stackOverflow => 16
  | .stackUnderflow => 17
  | .invalidRegisterIndex => 18
  | .invalidIndirectionDepth => 19
  | .deviceNotFound => 20
  | .invalidLogicType => 21
  | .invalidProgramCounter => 22
  | .permissionDenied => 23
  | .unresolvedName => 24
  | .halt => 25

/-- The code of a parse-time error (R1101). -/
def parseCode : ParseKind → Nat
  | .unknownInstruction => 1
  | .arityMismatch => 2
  | .unresolvedName => 3
  | .malformedOperand => 4
  | .duplicateLabel => 5

/-- The code of the soft stop InstructionLimitExceeded (R1101), which sets no error record (R1100). -/
def softStopCode : Nat := 32

/-- Fatal entry (60_exceptions.md R1110 (2), (3)): status, crashed flag, error record with the faulting line, and no
resume time; the program counter stays. -/
def State.fatal (s : State) (e : RunError) : State :=
  { s with status := .crashed, crashed := true, error := some ⟨e, e.code, s.pc⟩, resume := none }

/-- Run a computation as an instruction. When it raises an error, of its effects only the calls already made on the
device port stay (R1110 (1)), and the fatal entry is taken. -/
def perform (m : M Unit) (s : State) : Host.Outcome State Fault Refusal :=
  match m s with
  | .ok _ t => .next t
  | .error (.raised e) t => .next ({ s with port := t.port }.fatal e)
  | .error (.stopped f) _ => .fault f

/-- `reset()` (70_reset_and_hazards.md R1210): the program store, the label table and the pin bindings are kept, and
so are the model's own fields except the tick under way, which ends (log 27). -/
def State.restart (s : State) : State :=
  { s with
    x := Vector.replicate 18 F64.zero
    sp := F64.zero
    ra := F64.zero
    pc := 0
    npc := none
    stack := []
    aliases := []
    defines := []
    ic := 0
    error := none
    crashed := false
    resume := none
    status := if s.program.isSome then .ready else .noProgram
    inTick := false }

end Sys2Proof.Machine
end

