-- ==== Sys2Proof/Machine/DevicePort.lean ====
section
/-! DEFINITION. The device port (43_device.md R700 to R708): each call is recorded, answered by the host's tape for
its kind or, when that is empty, by a free answer (log 6). -/

namespace Sys2Proof.Machine

/-! ### The host's next answer of each kind -/

/-- The next answer to `Dev.resolvePin`: the tape, then the binding table; `db` is always the table's, since the host
must answer the circuit's own housing (R131, R702; log 7). -/
def Port.nextPin (p : Port) (pin : Pin) : Option Handle × Port :=
  match pin with
  | .db => (p.pins.db, p)
  | .d i =>
    match p.pinTape with
    | a :: rest => (a, { p with pinTape := rest })
    | [] => (p.pins.d.get i, p)

/-- The next answer to `Dev.resolveId`. -/
def Port.nextId (p : Port) : Option Handle × Port :=
  match p.idTape with
  | a :: rest => (a, { p with idTape := rest })
  | [] => (Config.freeHandle p.asked, { p with asked := p.asked + 1 })

/-- A list of handles without its later repeats, because a handle set's members are distinct (R700; log 10). -/
def distinct : List Handle → List Handle
  | [] => []
  | h :: rest => h :: (distinct rest).filter (· != h)

/-- The next answer to `Dev.resolveHash`. -/
def Port.nextSet (p : Port) : List Handle × Port :=
  match p.setTape with
  | a :: rest => (distinct a, { p with setTape := rest })
  | [] => (distinct (Config.freeHandles p.asked), { p with asked := p.asked + 1 })

/-- The next answer to a read. -/
def Port.nextRead (p : Port) : ReadAnswer × Port :=
  match p.readTape with
  | a :: rest => (a, { p with readTape := rest })
  | [] => (Config.freeRead p.asked, { p with asked := p.asked + 1 })

/-- The next answer to a write. -/
def Port.nextWrite (p : Port) : WriteAnswer × Port :=
  match p.writeTape with
  | a :: rest => (a, { p with writeTape := rest })
  | [] => (Config.freeWrite p.asked, { p with asked := p.asked + 1 })

/-- The next draw of `rand` (40_arith.md R425). -/
def Port.nextDraw (p : Port) : Draw × Port :=
  match p.drawTape with
  | a :: rest => (a, { p with drawTape := rest })
  | [] => (Config.freeDraw p.asked, { p with asked := p.asked + 1 })

/-- Record a call. -/
def Port.record (p : Port) (c : DevCall) : Port := { p with calls := c :: p.calls }

/-! ### Calls as questions to the port: the call is recorded and then answered -/

def Port.askPin (p : Port) (pin : Pin) : Option Handle × Port := (p.record (.resolvePin pin)).nextPin pin
def Port.askId (p : Port) (id : F64) : Option Handle × Port := (p.record (.resolveId id)).nextId
def Port.askSet (p : Port) (typeHash : F64) (nameHash : Option F64) : List Handle × Port :=
  (p.record (.resolveHash typeHash nameHash)).nextSet
def Port.askRead (p : Port) (c : DevCall) : ReadAnswer × Port := (p.record c).nextRead
def Port.askWrite (p : Port) (c : DevCall) : WriteAnswer × Port := (p.record c).nextWrite

/-! ### Calls as steps of an instruction -/

/-- Take an answer from the port. -/
def ask {α : Type} (f : Port → α × Port) : M α := fun s => .ok (f s.port).1 { s with port := (f s.port).2 }

/-- The run-time error a failure answer raises (R704). -/
def failError : DevFail → RunError
  | .invalidLogicType => .invalidLogicType
  | .permissionDenied => .permissionDenied

/-- `Dev.resolvePin(p)` (R700). -/
def resolvePin (pin : Pin) : M (Option Handle) := ask (·.askPin pin)

/-- `Dev.resolveId(v)` (R700). -/
def resolveId (id : F64) : M (Option Handle) := ask (·.askId id)

/-- `Dev.resolveHash(t, n)` (R700). -/
def resolveHash (typeHash : F64) (nameHash : Option F64) : M (List Handle) :=
  ask (·.askSet typeHash nameHash)

/-- A call answered by a value or a failure (R700, R704). -/
def readCall (c : DevCall) : M F64 := do
  match ← ask (·.askRead c) with
  | .value v => pure v
  | .fails f => raise (failError f)

/-- A call answered by done or a failure (R700, R704). -/
def writeCall (c : DevCall) : M Unit := do
  match ← ask (·.askWrite c) with
  | .done => pure ()
  | .fails f => raise (failError f)

/-- A read whose only failure is InvalidLogicType (R701): any failure is reported as that (log 9). -/
def readCellCall (c : DevCall) : M F64 := do
  match ← ask (·.askRead c) with
  | .value v => pure v
  | .fails _ => raise .invalidLogicType

/-- A write whose only failure is InvalidLogicType (R701): any failure is reported as that (log 9). -/
def writeCellCall (c : DevCall) : M Unit := do
  match ← ask (·.askWrite c) with
  | .done => pure ()
  | .fails _ => raise .invalidLogicType

/-- `Dev.read(h, key)` (R700). -/
def devRead (h : Handle) (k : Key) : M F64 := readCall (.read h k)

/-- `Dev.write(h, key, v)` (R700). -/
def devWrite (h : Handle) (k : Key) (v : F64) : M Unit := writeCall (.write h k v)

/-- `Dev.readSlot(h, slot, key)` (R700). -/
def devReadSlot (h : Handle) (slot : F64) (k : Key) : M F64 := readCall (.readSlot h slot k)

/-- `Dev.writeSlot(h, slot, key, v)` (R700). -/
def devWriteSlot (h : Handle) (slot : F64) (k : Key) (v : F64) : M Unit := writeCall (.writeSlot h slot k v)

/-- `Dev.readReagent(h, mode, hash)` (R701). -/
def devReadReagent (h : Handle) (mode : Key) (hash : F64) : M F64 := readCellCall (.readReagent h mode hash)

/-- Whether a handle's device memory is this core's own stack (R731): the handle of `db`, under
`DB_MEMORY_ALIASES_STACK` (log 8). -/
def State.memoryIsStack (s : State) (h : Handle) : Bool :=
  s.params.dbMemoryIsStack && s.port.pins.db == some h

/-- `Dev.readMem(h, addr)` (R701, R731). -/
def devReadMem (h : Handle) (addr : F64) : M F64 := do
  if (← get).memoryIsStack h then
    let a ← look fun _ => stackAddr addr
    return (← get).stack.read a
  else readCellCall (.readMem h addr)

/-- `Dev.writeMem(h, addr, v)` (R701, R731). -/
def devWriteMem (h : Handle) (addr : F64) (v : F64) : M Unit := do
  if (← get).memoryIsStack h then
    let a ← look fun _ => stackAddr addr
    setStack a v
  else writeCellCall (.writeMem h addr v)

/-- `Dev.clearMem(h)` (R701, R731), which cannot fail. -/
def devClearMem (h : Handle) : M Unit := do
  if (← get).memoryIsStack h then update fun s => { s with stack := [] }
  else ask fun p => ((), p.record (.clearMem h))

/-- `need(h, info)` (R704). -/
def need : Option Handle → M Handle
  | some h => pure h
  | none => raise .deviceNotFound

/-! ### Handle sets (R707, R708) -/

/-- Read from every handle in order; the first failure is raised (R708). -/
def readEach (read : Handle → M F64) : List Handle → M (List F64)
  | [] => pure []
  | h :: rest => do
    let v ← read h
    let vs ← readEach read rest
    pure (v :: vs)

/-- Write to every handle in order; the first failure is raised, and the calls before it stay made (R708). -/
def writeEach (write : Handle → M Unit) : List Handle → M Unit
  | [] => pure ()
  | h :: rest => do
    write h
    writeEach write rest

/-- `agg(mode, [v1, ..., vn])` (R707). -/
def aggregate (mode : BatchMode) (vs : List F64) : F64 :=
  match vs with
  | [] => F64.zero
  | v :: rest =>
    match mode with
    | .sum => rest.foldl F64.add v
    | .average => F64.div (rest.foldl F64.add v) (F64.ofNat vs.length)
    | .minimum => rest.foldl F64.min v
    | .maximum => rest.foldl F64.max v

end Sys2Proof.Machine
end

