-- ==== Sys2Proof/Machine/Operands.lean ====
section
/-! DEFINITION. The operand multiplexer (30_encoding.md R320 to R328): descriptors to values, cells, pins, keys and
batch modes. Only the resolution of a pin touches the state, because it calls the device port. -/

namespace Sys2Proof.Machine

/-! ### Names and registers -/

/-- What a name is bound to (R326). -/
inductive Binding where
  | target (t : Target)
  | constant (v : F64)
  | line (n : Nat)
  deriving DecidableEq, Repr

/-- `bind(s)` (R326): the alias table, then the define table, then the label table. -/
def State.binding (s : State) (name : Ident) : Except Exn Binding :=
  match lookupIn s.aliases name with
  | some t => .ok (.target t)
  | none =>
    match lookupIn s.defines name with
    | some v => .ok (.constant v)
    | none =>
      match lookupIn s.labels name with
      | some n => .ok (.line n)
      | none => .error (.raised .unresolvedName)

/-- The register index a value stands for (R121). -/
def registerIndex (v : F64) : Except Exn (Fin 18) :=
  match toIdx v .invalidRegisterIndex with
  | .error e => .error e
  | .ok i =>
    if h : 0 ≤ i ∧ i < 18 then .ok ⟨i.toNat, by omega⟩ else .error (.raised .invalidRegisterIndex)

/-- Follow `k` register reads from a register index, checking each index read (R321). -/
def State.hops (s : State) : Nat → Fin 18 → Except Exn (Fin 18)
  | 0, i => .ok i
  | k + 1, i =>
    match registerIndex (s.x.get i) with
    | .error e => .error e
    | .ok j => s.hops k j

/-- The depth check (R321, R323). -/
def State.depthOk (s : State) (k : Nat) : Except Exn Unit :=
  if s.params.maxIndirection < k then .error (.raised .invalidIndirectionDepth) else .ok ()

/-- The cell a register descriptor names (R321, R322). -/
def State.cellOf (s : State) : Reg → Except Exn Cell
  | .sp => .ok .sp
  | .ra => .ok .ra
  | .gpr n k =>
    match s.depthOk k with
    | .error e => .error e
    | .ok _ =>
      match s.hops k n with
      | .error e => .error e
      | .ok i => .ok (.x i)

/-- The value of a register descriptor (R320). -/
def State.regValue (s : State) (r : Reg) : Except Exn F64 :=
  match s.cellOf r with
  | .error e => .error e
  | .ok c => .ok (s.readCell c)

/-- `V(o)` (R320). A name bound to a pin has no value (log 14). -/
def State.value (s : State) : ValOp → Except Exn F64
  | .reg r => s.regValue r
  | .num v => .ok v
  | .name n =>
    match s.binding n with
    | .error e => .error e
    | .ok (.target (.reg r)) => s.regValue r
    | .ok (.target (.pin _)) => .error (.stopped .nameCategory)
    | .ok (.constant v) => .ok v
    | .ok (.line l) => .ok (F64.ofNat l)

/-- `D(o)` (R322). A name not bound to a register names no cell (log 14). -/
def State.dest (s : State) : RegOp → Except Exn Cell
  | .reg r => s.cellOf r
  | .name n =>
    match s.binding n with
    | .error e => .error e
    | .ok (.target (.reg r)) => s.cellOf r
    | .ok _ => .error (.stopped .nameCategory)

/-! ### Pins -/

/-- `pinIndex(v)` (R324). -/
def pinIndex (v : F64) : Except Exn (Fin 6) :=
  match toIdx v .deviceNotFound with
  | .error e => .error e
  | .ok p => if h : 0 ≤ p ∧ p < 6 then .ok ⟨p.toNat, by omega⟩ else .error (.raised .deviceNotFound)

/-- The pin a pin descriptor names (R323): of its `k` register reads the last gives the pin index. -/
def State.pinOf (s : State) : PinRef → Except Exn Pin
  | .direct p => .ok p
  | .ind n k =>
    match s.depthOk k with
    | .error e => .error e
    | .ok _ =>
      match s.hops (k - 1) n with
      | .error e => .error e
      | .ok i =>
        match pinIndex (s.x.get i) with
        | .error e => .error e
        | .ok p => .ok (.d p)

/-- The pin an operand names (R323). A name not bound to a pin names none (log 14). -/
def State.pin (s : State) : PinOp → Except Exn Pin
  | .pin p => s.pinOf p
  | .name n =>
    match s.binding n with
    | .error e => .error e
    | .ok (.target (.pin p)) => s.pinOf p
    | .ok _ => .error (.stopped .nameCategory)

/-! ### Keys and batch modes -/

/-- `K(o)` (R325). -/
def State.key (s : State) : KeyOp → Except Exn Key
  | .key k => .ok (.named k)
  | .val v =>
    match s.value v with
    | .error e => .error e
    | .ok n => .ok (.numeric n)

/-- The batch mode a number stands for (R327). -/
def modeNumber (v : F64) : Except Exn BatchMode :=
  match toIdx v .invalidLogicType with
  | .error e => .error e
  | .ok n =>
    if n = 0 then .ok .average
    else if n = 1 then .ok .sum
    else if n = 2 then .ok .minimum
    else if n = 3 then .ok .maximum
    else .error (.raised .invalidLogicType)

/-- `M(o)` (R327). -/
def State.mode (s : State) : ModeOp → Except Exn BatchMode
  | .mode m => .ok m
  | .val v =>
    match s.value v with
    | .error e => .error e
    | .ok n => modeNumber n

/-! ### As steps of an instruction (R328) -/

def value (o : ValOp) : M F64 := look (·.value o)
def dest (o : RegOp) : M Cell := look (·.dest o)
def key (o : KeyOp) : M Key := look (·.key o)
def mode (o : ModeOp) : M BatchMode := look (·.mode o)

/-- `P(o)` (R323): the pin, and then the host's answer for it. -/
def pin (o : PinOp) : M (Option Handle) := do
  let p ← look (·.pin o)
  resolvePin p

/-! ### The template of 40_arith.md R400: destination, sources left to right, one write -/

def unary (f : F64 → F64) (r : RegOp) (a : ValOp) : M Unit := do
  let dst ← dest r
  let x ← value a
  setCell dst (f x)

def binary (f : F64 → F64 → F64) (r : RegOp) (a b : ValOp) : M Unit := do
  let dst ← dest r
  let x ← value a
  let y ← value b
  setCell dst (f x y)

def ternary (f : F64 → F64 → F64 → F64) (r : RegOp) (a b c : ValOp) : M Unit := do
  let dst ← dest r
  let x ← value a
  let y ← value b
  let z ← value c
  setCell dst (f x y z)

end Sys2Proof.Machine
end

