-- ==== Sys2Proof/Machine/Arith.lean ====
section
/-! DEFINITION. Arithmetic, math, move and select (40_arith.md). -/

namespace Sys2Proof.Machine

/-- The direction `round` takes at exact halves (R412). -/
def roundDir : RoundHalf → F64.Dir
  | .away => .halfAway
  | .even => .halfEven

/-- `select`'s result (R427): the second value unless the first equals zero. -/
def selectValue (x y z : F64) : F64 := if F64.ne x F64.zero then y else z

/-- `add r? a b` (R403). -/
def execAdd (r : RegOp) (a : ValOp) (b : ValOp) (s : State) : Host.Outcome State Fault Refusal :=
  perform (binary F64.add r a b) s

/-- `sub r? a b` (R404). -/
def execSub (r : RegOp) (a : ValOp) (b : ValOp) (s : State) : Host.Outcome State Fault Refusal :=
  perform (binary F64.sub r a b) s

/-- `mul r? a b` (R405). -/
def execMul (r : RegOp) (a : ValOp) (b : ValOp) (s : State) : Host.Outcome State Fault Refusal :=
  perform (binary F64.mul r a b) s

/-- `div r? a b` (R406). -/
def execDiv (r : RegOp) (a : ValOp) (b : ValOp) (s : State) : Host.Outcome State Fault Refusal :=
  perform (binary F64.div r a b) s

/-- `mod r? a b` (R407). -/
def execMod (r : RegOp) (a : ValOp) (b : ValOp) (s : State) : Host.Outcome State Fault Refusal :=
  perform (binary F64.mod r a b) s

/-- `abs r? a` (R408). -/
def execAbs (r : RegOp) (a : ValOp) (s : State) : Host.Outcome State Fault Refusal :=
  perform (unary F64.abs r a) s

/-- `sqrt r? a` (R409). -/
def execSqrt (r : RegOp) (a : ValOp) (s : State) : Host.Outcome State Fault Refusal :=
  perform (unary F64.sqrt r a) s

/-- `ceil r? a` (R410). -/
def execCeil (r : RegOp) (a : ValOp) (s : State) : Host.Outcome State Fault Refusal :=
  perform (unary (F64.roundToIntegral .up) r a) s

/-- `floor r? a` (R411). -/
def execFloor (r : RegOp) (a : ValOp) (s : State) : Host.Outcome State Fault Refusal :=
  perform (unary (F64.roundToIntegral .down) r a) s

/-- `round r? a` (R412). -/
def execRound (r : RegOp) (a : ValOp) (s : State) : Host.Outcome State Fault Refusal :=
  perform (unary (F64.roundToIntegral (roundDir s.params.roundHalf)) r a) s

/-- `trunc r? a` (R413). -/
def execTrunc (r : RegOp) (a : ValOp) (s : State) : Host.Outcome State Fault Refusal :=
  perform (unary (F64.roundToIntegral .toZero) r a) s

/-- `exp r? a` (R414). -/
def execExp (r : RegOp) (a : ValOp) (s : State) : Host.Outcome State Fault Refusal :=
  perform (unary F64.exp r a) s

/-- `log r? a` (R415). -/
def execLog (r : RegOp) (a : ValOp) (s : State) : Host.Outcome State Fault Refusal :=
  perform (unary F64.log r a) s

/-- `sin r? a` (R416). -/
def execSin (r : RegOp) (a : ValOp) (s : State) : Host.Outcome State Fault Refusal :=
  perform (unary F64.sin r a) s

/-- `cos r? a` (R417). -/
def execCos (r : RegOp) (a : ValOp) (s : State) : Host.Outcome State Fault Refusal :=
  perform (unary F64.cos r a) s

/-- `tan r? a` (R418). -/
def execTan (r : RegOp) (a : ValOp) (s : State) : Host.Outcome State Fault Refusal :=
  perform (unary F64.tan r a) s

/-- `asin r? a` (R419). -/
def execAsin (r : RegOp) (a : ValOp) (s : State) : Host.Outcome State Fault Refusal :=
  perform (unary F64.asin r a) s

/-- `acos r? a` (R420). -/
def execAcos (r : RegOp) (a : ValOp) (s : State) : Host.Outcome State Fault Refusal :=
  perform (unary F64.acos r a) s

/-- `atan r? a` (R421). -/
def execAtan (r : RegOp) (a : ValOp) (s : State) : Host.Outcome State Fault Refusal :=
  perform (unary F64.atan r a) s

/-- `atan2 r? a b` (R422). -/
def execAtan2 (r : RegOp) (a : ValOp) (b : ValOp) (s : State) : Host.Outcome State Fault Refusal :=
  perform (binary F64.atan2 r a b) s

/-- `max r? a b` (R423). -/
def execMax (r : RegOp) (a : ValOp) (b : ValOp) (s : State) : Host.Outcome State Fault Refusal :=
  perform (binary F64.max r a b) s

/-- `min r? a b` (R424). -/
def execMin (r : RegOp) (a : ValOp) (b : ValOp) (s : State) : Host.Outcome State Fault Refusal :=
  perform (binary F64.min r a b) s

/-- `rand r?` (R425): the draw is an input of the step (log 12). -/
def execRand (r : RegOp) (s : State) : Host.Outcome State Fault Refusal :=
  perform (do
    let dst ← dest r
    let u ← ask Port.nextDraw
    setCell dst u.value) s

/-- `move r? a` (R426). -/
def execMove (r : RegOp) (a : ValOp) (s : State) : Host.Outcome State Fault Refusal :=
  perform (unary id r a) s

/-- `select r? a b c` (R427): NaN counts as non-zero. -/
def execSelect (r : RegOp) (a : ValOp) (b : ValOp) (c : ValOp) (s : State) : Host.Outcome State Fault Refusal :=
  perform (ternary selectValue r a b c) s

end Sys2Proof.Machine
end

