-- ==== Sys2Proof/Machine/Bitwise.lean ====
section
/-! DEFINITION. Bitwise and shift instructions (41_bitwise.md), under `BITWISE_MODEL`. -/

namespace Sys2Proof.Machine

/-- The integer width `W` (R500). -/
def bitWidth : BitwiseModel → Nat
  | .i64 => 64
  | .i53 => 53

/-- The integer `toInt` takes from a value before it is wrapped to `W` bits (R500): truncated toward zero; NaN
gives 0; I64 clamps, the infinities too, and I53 gives 0 for them. -/
def integerOf (m : BitwiseModel) (v : F64) : Int :=
  match F64.truncInt v with
  | some i =>
    match m with
    | .i64 => Max.max (-(2 ^ 63 : Nat) : Int) (Min.min i ((2 ^ 63 - 1 : Nat) : Int))
    | .i53 => i
  | none =>
    match m, v with
    | .i64, .inf neg => if neg then (-(2 ^ 63 : Nat) : Int) else ((2 ^ 63 - 1 : Nat) : Int)
    | _, _ => 0

/-- `toInt(v)` (R500). The wrapping of I53 is UNVERIFIED by the spec's own words (log 33). -/
def toInt (m : BitwiseModel) (v : F64) : BitVec (bitWidth m) := BitVec.ofInt (bitWidth m) (integerOf m v)

/-- `fromInt(i)` of a `W`-bit result read as signed (R500). -/
def fromInt (m : BitwiseModel) (b : BitVec (bitWidth m)) : F64 := F64.ofInt b.toInt

def andBits (m : BitwiseModel) (x y : F64) : F64 := fromInt m (toInt m x &&& toInt m y)
def orBits (m : BitwiseModel) (x y : F64) : F64 := fromInt m (toInt m x ||| toInt m y)
def xorBits (m : BitwiseModel) (x y : F64) : F64 := fromInt m (toInt m x ^^^ toInt m y)
def norBits (m : BitwiseModel) (x y : F64) : F64 := fromInt m (~~~(toInt m x ||| toInt m y))
def notBits (m : BitwiseModel) (x : F64) : F64 := fromInt m (~~~(toInt m x))

/-- The shift count of R501, if it is in `0 .. W-1`. -/
def shiftCount (m : BitwiseModel) (y : F64) : Option Nat :=
  let n := (toInt m y).toInt
  if 0 ≤ n ∧ n < bitWidth m then some n.toNat else none

/-- Left shift, logical and arithmetic alike (R507, R508). -/
def shiftLeft (m : BitwiseModel) (x y : F64) : F64 :=
  match shiftCount m y with
  | some n => fromInt m (toInt m x <<< n)
  | none => F64.zero

/-- Logical right shift (R509). -/
def shiftRightLogical (m : BitwiseModel) (x y : F64) : F64 :=
  match shiftCount m y with
  | some n => fromInt m (toInt m x >>> n)
  | none => F64.zero

/-- Arithmetic right shift (R510); a count out of range leaves the sign fill (R501). -/
def shiftRightArith (m : BitwiseModel) (x y : F64) : F64 :=
  match shiftCount m y with
  | some n => fromInt m ((toInt m x).sshiftRight n)
  | none => if (toInt m x).toInt < 0 then F64.neg F64.one else F64.zero

/-- `and r? a b` (R502). -/
def execAnd (r : RegOp) (a : ValOp) (b : ValOp) (s : State) : Host.Outcome State Fault Refusal :=
  perform (binary (andBits s.params.bitwise) r a b) s

/-- `or r? a b` (R503). -/
def execOr (r : RegOp) (a : ValOp) (b : ValOp) (s : State) : Host.Outcome State Fault Refusal :=
  perform (binary (orBits s.params.bitwise) r a b) s

/-- `xor r? a b` (R504). -/
def execXor (r : RegOp) (a : ValOp) (b : ValOp) (s : State) : Host.Outcome State Fault Refusal :=
  perform (binary (xorBits s.params.bitwise) r a b) s

/-- `nor r? a b` (R505). -/
def execNor (r : RegOp) (a : ValOp) (b : ValOp) (s : State) : Host.Outcome State Fault Refusal :=
  perform (binary (norBits s.params.bitwise) r a b) s

/-- `not r? a` (R506). -/
def execNot (r : RegOp) (a : ValOp) (s : State) : Host.Outcome State Fault Refusal :=
  perform (unary (notBits s.params.bitwise) r a) s

/-- `sll r? a b` (R507). -/
def execSll (r : RegOp) (a : ValOp) (b : ValOp) (s : State) : Host.Outcome State Fault Refusal :=
  perform (binary (shiftLeft s.params.bitwise) r a b) s

/-- `sla r? a b` (R508). -/
def execSla (r : RegOp) (a : ValOp) (b : ValOp) (s : State) : Host.Outcome State Fault Refusal :=
  perform (binary (shiftLeft s.params.bitwise) r a b) s

/-- `srl r? a b` (R509). -/
def execSrl (r : RegOp) (a : ValOp) (b : ValOp) (s : State) : Host.Outcome State Fault Refusal :=
  perform (binary (shiftRightLogical s.params.bitwise) r a b) s

/-- `sra r? a b` (R510). -/
def execSra (r : RegOp) (a : ValOp) (b : ValOp) (s : State) : Host.Outcome State Fault Refusal :=
  perform (binary (shiftRightArith s.params.bitwise) r a b) s

end Sys2Proof.Machine
end

