-- ==== Sys2Proof/Machine/Flags.lean ====
section
/-! DEFINITION. The predicates of compare and branch instructions (42_compare.md R600, R601; 45_control.md R903). The
core has no condition codes (10_state.md R130): a predicate's result goes to a register or decides a branch. -/

namespace Sys2Proof.Machine

/-- `approx(a, b, c)` (R601), with `APPROX_EPS` as the first argument. -/
def approx (eps a b c : F64) : Bool :=
  F64.le (F64.abs (F64.sub a b)) (F64.max (F64.mul c (F64.max (F64.abs a) (F64.abs b))) eps)

/-- `approxz(a, b)` (R601), with `APPROX_EPS` as the first argument. For a zero `a` and `b = +Inf` it follows that
formula, which is false there, and not the last clause of R602 (DEDUCED, log 36). -/
def approxZero (eps a b : F64) : Bool :=
  F64.le (F64.abs a) (F64.max (F64.mul b (F64.abs a)) eps)

/-- Compare with zero: `x(a, 0)` (R903). -/
def withZero (rel : F64 → F64 → Bool) (a : F64) : Bool := rel a F64.zero

end Sys2Proof.Machine
end

