-- ==== Sys2Proof/Machine/Compare.lean ====
section
/-! DEFINITION. Set-on-compare, approximate compare and NaN tests (42_compare.md). -/

namespace Sys2Proof.Machine

/-- `D(r?) <- b2f(c)` for a predicate of one, two or three values (R600). -/
def setIf1 (p : F64 → Bool) (r : RegOp) (a : ValOp) : M Unit := unary (fun x => F64.ofBool (p x)) r a

def setIf2 (p : F64 → F64 → Bool) (r : RegOp) (a b : ValOp) : M Unit :=
  binary (fun x y => F64.ofBool (p x y)) r a b

def setIf3 (p : F64 → F64 → F64 → Bool) (r : RegOp) (a b c : ValOp) : M Unit :=
  ternary (fun x y z => F64.ofBool (p x y z)) r a b c

/-- `seq r? a b` (R603). -/
def execSeq (r : RegOp) (a : ValOp) (b : ValOp) (s : State) : Host.Outcome State Fault Refusal :=
  perform (setIf2 F64.eq r a b) s

/-- `seqz r? a` (R604). -/
def execSeqz (r : RegOp) (a : ValOp) (s : State) : Host.Outcome State Fault Refusal :=
  perform (setIf1 (withZero F64.eq) r a) s

/-- `sne r? a b` (R605). -/
def execSne (r : RegOp) (a : ValOp) (b : ValOp) (s : State) : Host.Outcome State Fault Refusal :=
  perform (setIf2 F64.ne r a b) s

/-- `snez r? a` (R606). -/
def execSnez (r : RegOp) (a : ValOp) (s : State) : Host.Outcome State Fault Refusal :=
  perform (setIf1 (withZero F64.ne) r a) s

/-- `slt r? a b` (R607). -/
def execSlt (r : RegOp) (a : ValOp) (b : ValOp) (s : State) : Host.Outcome State Fault Refusal :=
  perform (setIf2 F64.lt r a b) s

/-- `sltz r? a` (R608). -/
def execSltz (r : RegOp) (a : ValOp) (s : State) : Host.Outcome State Fault Refusal :=
  perform (setIf1 (withZero F64.lt) r a) s

/-- `sle r? a b` (R609). -/
def execSle (r : RegOp) (a : ValOp) (b : ValOp) (s : State) : Host.Outcome State Fault Refusal :=
  perform (setIf2 F64.le r a b) s

/-- `slez r? a` (R610). -/
def execSlez (r : RegOp) (a : ValOp) (s : State) : Host.Outcome State Fault Refusal :=
  perform (setIf1 (withZero F64.le) r a) s

/-- `sgt r? a b` (R611). -/
def execSgt (r : RegOp) (a : ValOp) (b : ValOp) (s : State) : Host.Outcome State Fault Refusal :=
  perform (setIf2 F64.gt r a b) s

/-- `sgtz r? a` (R612). -/
def execSgtz (r : RegOp) (a : ValOp) (s : State) : Host.Outcome State Fault Refusal :=
  perform (setIf1 (withZero F64.gt) r a) s

/-- `sge r? a b` (R613). -/
def execSge (r : RegOp) (a : ValOp) (b : ValOp) (s : State) : Host.Outcome State Fault Refusal :=
  perform (setIf2 F64.ge r a b) s

/-- `sgez r? a` (R614). -/
def execSgez (r : RegOp) (a : ValOp) (s : State) : Host.Outcome State Fault Refusal :=
  perform (setIf1 (withZero F64.ge) r a) s

/-- `sap r? a b c` (R615). -/
def execSap (r : RegOp) (a : ValOp) (b : ValOp) (c : ValOp) (s : State) : Host.Outcome State Fault Refusal :=
  perform (setIf3 (approx s.params.approxEps) r a b c) s

/-- `sapz r? a b` (R616). -/
def execSapz (r : RegOp) (a : ValOp) (b : ValOp) (s : State) : Host.Outcome State Fault Refusal :=
  perform (setIf2 (approxZero s.params.approxEps) r a b) s

/-- `sna r? a b c` (R617). -/
def execSna (r : RegOp) (a : ValOp) (b : ValOp) (c : ValOp) (s : State) : Host.Outcome State Fault Refusal :=
  perform (setIf3 (fun x y z => !approx s.params.approxEps x y z) r a b c) s

/-- `snaz r? a b` (R618). -/
def execSnaz (r : RegOp) (a : ValOp) (b : ValOp) (s : State) : Host.Outcome State Fault Refusal :=
  perform (setIf2 (fun x y => !approxZero s.params.approxEps x y) r a b) s

/-- `snan r? a` (R619). -/
def execSnan (r : RegOp) (a : ValOp) (s : State) : Host.Outcome State Fault Refusal :=
  perform (setIf1 F64.isNaN r a) s

/-- `snanz r? a` (R620). -/
def execSnanz (r : RegOp) (a : ValOp) (s : State) : Host.Outcome State Fault Refusal :=
  perform (setIf1 (fun x => !F64.isNaN x) r a) s

end Sys2Proof.Machine
end

