-- ==== Sys2Proof/Machine/Control.lean ====
section
/-! DEFINITION. Jumps, calls and branches (45_control.md). A branch resolves its operands, evaluates its predicate,
and only when taken computes its target (R900). -/

namespace Sys2Proof.Machine

/-- The absolute target of a taken jump (R901). -/
def jumpTo (v : F64) : M Unit := do
  let t ← look (·.target v)
  setNpc t

/-- The absolute target of a taken call: the link is written after the target check (R902). -/
def callTo (v : F64) : M Unit := do
  let t ← look (·.target v)
  update fun s => s.writeCell .ra (F64.ofNat (s.pc + 1))
  setNpc t

/-- The relative target of a taken jump (R901). -/
def jumpBy (v : F64) : M Unit := do
  let t ← look fun s => s.target (F64.add (F64.ofNat s.pc) v)
  setNpc t

/-- A branch on one value. -/
def branch1 (p : F64 → Bool) (go : F64 → M Unit) (a b : ValOp) : M Unit := do
  let x ← value a
  let t ← value b
  if p x then go t else pure ()

/-- A branch on two values. -/
def branch2 (p : F64 → F64 → Bool) (go : F64 → M Unit) (a b c : ValOp) : M Unit := do
  let x ← value a
  let y ← value b
  let t ← value c
  if p x y then go t else pure ()

/-- A branch on three values. -/
def branch3 (p : F64 → F64 → F64 → Bool) (go : F64 → M Unit) (a b c e : ValOp) : M Unit := do
  let x ← value a
  let y ← value b
  let z ← value c
  let t ← value e
  if p x y z then go t else pure ()

/-- A branch on the binding of a pin. -/
def branchPin (p : Option Handle → Bool) (go : F64 → M Unit) (d : PinOp) (a : ValOp) : M Unit := do
  let h ← pin d
  let t ← value a
  if p h then go t else pure ()

/-- `j a` (R910). -/
def execJ (a : ValOp) (s : State) : Host.Outcome State Fault Refusal :=
  perform (do jumpTo (← value a)) s

/-- `jal a` (R911). -/
def execJal (a : ValOp) (s : State) : Host.Outcome State Fault Refusal :=
  perform (do callTo (← value a)) s

/-- `jr a` (R912). -/
def execJr (a : ValOp) (s : State) : Host.Outcome State Fault Refusal :=
  perform (do jumpBy (← value a)) s

/-- `beq a b c` (R920). -/
def execBeq (a : ValOp) (b : ValOp) (c : ValOp) (s : State) : Host.Outcome State Fault Refusal :=
  perform (branch2 F64.eq jumpTo a b c) s

/-- `beqal a b c` (R921). -/
def execBeqal (a : ValOp) (b : ValOp) (c : ValOp) (s : State) : Host.Outcome State Fault Refusal :=
  perform (branch2 F64.eq callTo a b c) s

/-- `breq a b c` (R922). -/
def execBreq (a : ValOp) (b : ValOp) (c : ValOp) (s : State) : Host.Outcome State Fault Refusal :=
  perform (branch2 F64.eq jumpBy a b c) s

/-- `beqz a b` (R923). -/
def execBeqz (a : ValOp) (b : ValOp) (s : State) : Host.Outcome State Fault Refusal :=
  perform (branch1 (withZero F64.eq) jumpTo a b) s

/-- `beqzal a b` (R924). -/
def execBeqzal (a : ValOp) (b : ValOp) (s : State) : Host.Outcome State Fault Refusal :=
  perform (branch1 (withZero F64.eq) callTo a b) s

/-- `breqz a b` (R925). -/
def execBreqz (a : ValOp) (b : ValOp) (s : State) : Host.Outcome State Fault Refusal :=
  perform (branch1 (withZero F64.eq) jumpBy a b) s

/-- `bne a b c` (R926). -/
def execBne (a : ValOp) (b : ValOp) (c : ValOp) (s : State) : Host.Outcome State Fault Refusal :=
  perform (branch2 F64.ne jumpTo a b c) s

/-- `bneal a b c` (R927). -/
def execBneal (a : ValOp) (b : ValOp) (c : ValOp) (s : State) : Host.Outcome State Fault Refusal :=
  perform (branch2 F64.ne callTo a b c) s

/-- `brne a b c` (R928). -/
def execBrne (a : ValOp) (b : ValOp) (c : ValOp) (s : State) : Host.Outcome State Fault Refusal :=
  perform (branch2 F64.ne jumpBy a b c) s

/-- `bnez a b` (R929). -/
def execBnez (a : ValOp) (b : ValOp) (s : State) : Host.Outcome State Fault Refusal :=
  perform (branch1 (withZero F64.ne) jumpTo a b) s

/-- `bnezal a b` (R930). -/
def execBnezal (a : ValOp) (b : ValOp) (s : State) : Host.Outcome State Fault Refusal :=
  perform (branch1 (withZero F64.ne) callTo a b) s

/-- `brnez a b` (R931). -/
def execBrnez (a : ValOp) (b : ValOp) (s : State) : Host.Outcome State Fault Refusal :=
  perform (branch1 (withZero F64.ne) jumpBy a b) s

/-- `blt a b c` (R932). -/
def execBlt (a : ValOp) (b : ValOp) (c : ValOp) (s : State) : Host.Outcome State Fault Refusal :=
  perform (branch2 F64.lt jumpTo a b c) s

/-- `bltal a b c` (R933). -/
def execBltal (a : ValOp) (b : ValOp) (c : ValOp) (s : State) : Host.Outcome State Fault Refusal :=
  perform (branch2 F64.lt callTo a b c) s

/-- `brlt a b c` (R934). -/
def execBrlt (a : ValOp) (b : ValOp) (c : ValOp) (s : State) : Host.Outcome State Fault Refusal :=
  perform (branch2 F64.lt jumpBy a b c) s

/-- `bltz a b` (R935). -/
def execBltz (a : ValOp) (b : ValOp) (s : State) : Host.Outcome State Fault Refusal :=
  perform (branch1 (withZero F64.lt) jumpTo a b) s

/-- `bltzal a b` (R936). -/
def execBltzal (a : ValOp) (b : ValOp) (s : State) : Host.Outcome State Fault Refusal :=
  perform (branch1 (withZero F64.lt) callTo a b) s

/-- `brltz a b` (R937). -/
def execBrltz (a : ValOp) (b : ValOp) (s : State) : Host.Outcome State Fault Refusal :=
  perform (branch1 (withZero F64.lt) jumpBy a b) s

/-- `ble a b c` (R938). -/
def execBle (a : ValOp) (b : ValOp) (c : ValOp) (s : State) : Host.Outcome State Fault Refusal :=
  perform (branch2 F64.le jumpTo a b c) s

/-- `bleal a b c` (R939). -/
def execBleal (a : ValOp) (b : ValOp) (c : ValOp) (s : State) : Host.Outcome State Fault Refusal :=
  perform (branch2 F64.le callTo a b c) s

/-- `brle a b c` (R940). -/
def execBrle (a : ValOp) (b : ValOp) (c : ValOp) (s : State) : Host.Outcome State Fault Refusal :=
  perform (branch2 F64.le jumpBy a b c) s

/-- `blez a b` (R941). -/
def execBlez (a : ValOp) (b : ValOp) (s : State) : Host.Outcome State Fault Refusal :=
  perform (branch1 (withZero F64.le) jumpTo a b) s

/-- `blezal a b` (R942). -/
def execBlezal (a : ValOp) (b : ValOp) (s : State) : Host.Outcome State Fault Refusal :=
  perform (branch1 (withZero F64.le) callTo a b) s

/-- `brlez a b` (R943). -/
def execBrlez (a : ValOp) (b : ValOp) (s : State) : Host.Outcome State Fault Refusal :=
  perform (branch1 (withZero F64.le) jumpBy a b) s

/-- `bgt a b c` (R944). -/
def execBgt (a : ValOp) (b : ValOp) (c : ValOp) (s : State) : Host.Outcome State Fault Refusal :=
  perform (branch2 F64.gt jumpTo a b c) s

/-- `bgtal a b c` (R945). -/
def execBgtal (a : ValOp) (b : ValOp) (c : ValOp) (s : State) : Host.Outcome State Fault Refusal :=
  perform (branch2 F64.gt callTo a b c) s

/-- `brgt a b c` (R946). -/
def execBrgt (a : ValOp) (b : ValOp) (c : ValOp) (s : State) : Host.Outcome State Fault Refusal :=
  perform (branch2 F64.gt jumpBy a b c) s

/-- `bgtz a b` (R947). -/
def execBgtz (a : ValOp) (b : ValOp) (s : State) : Host.Outcome State Fault Refusal :=
  perform (branch1 (withZero F64.gt) jumpTo a b) s

/-- `bgtzal a b` (R948). -/
def execBgtzal (a : ValOp) (b : ValOp) (s : State) : Host.Outcome State Fault Refusal :=
  perform (branch1 (withZero F64.gt) callTo a b) s

/-- `brgtz a b` (R949). -/
def execBrgtz (a : ValOp) (b : ValOp) (s : State) : Host.Outcome State Fault Refusal :=
  perform (branch1 (withZero F64.gt) jumpBy a b) s

/-- `bge a b c` (R950). -/
def execBge (a : ValOp) (b : ValOp) (c : ValOp) (s : State) : Host.Outcome State Fault Refusal :=
  perform (branch2 F64.ge jumpTo a b c) s

/-- `bgeal a b c` (R951). -/
def execBgeal (a : ValOp) (b : ValOp) (c : ValOp) (s : State) : Host.Outcome State Fault Refusal :=
  perform (branch2 F64.ge callTo a b c) s

/-- `brge a b c` (R952). -/
def execBrge (a : ValOp) (b : ValOp) (c : ValOp) (s : State) : Host.Outcome State Fault Refusal :=
  perform (branch2 F64.ge jumpBy a b c) s

/-- `bgez a b` (R953). -/
def execBgez (a : ValOp) (b : ValOp) (s : State) : Host.Outcome State Fault Refusal :=
  perform (branch1 (withZero F64.ge) jumpTo a b) s

/-- `bgezal a b` (R954). -/
def execBgezal (a : ValOp) (b : ValOp) (s : State) : Host.Outcome State Fault Refusal :=
  perform (branch1 (withZero F64.ge) callTo a b) s

/-- `brgez a b` (R955). -/
def execBrgez (a : ValOp) (b : ValOp) (s : State) : Host.Outcome State Fault Refusal :=
  perform (branch1 (withZero F64.ge) jumpBy a b) s

/-- `bap a b c d` (R956). -/
def execBap (a : ValOp) (b : ValOp) (c : ValOp) (e : ValOp) (s : State) : Host.Outcome State Fault Refusal :=
  perform (branch3 (approx s.params.approxEps) jumpTo a b c e) s

/-- `bapal a b c d` (R957). -/
def execBapal (a : ValOp) (b : ValOp) (c : ValOp) (e : ValOp) (s : State) : Host.Outcome State Fault Refusal :=
  perform (branch3 (approx s.params.approxEps) callTo a b c e) s

/-- `brap a b c d` (R958). -/
def execBrap (a : ValOp) (b : ValOp) (c : ValOp) (e : ValOp) (s : State) : Host.Outcome State Fault Refusal :=
  perform (branch3 (approx s.params.approxEps) jumpBy a b c e) s

/-- `bapz a b c` (R959). -/
def execBapz (a : ValOp) (b : ValOp) (c : ValOp) (s : State) : Host.Outcome State Fault Refusal :=
  perform (branch2 (approxZero s.params.approxEps) jumpTo a b c) s

/-- `bapzal a b c` (R960). -/
def execBapzal (a : ValOp) (b : ValOp) (c : ValOp) (s : State) : Host.Outcome State Fault Refusal :=
  perform (branch2 (approxZero s.params.approxEps) callTo a b c) s

/-- `brapz a b c` (R961). -/
def execBrapz (a : ValOp) (b : ValOp) (c : ValOp) (s : State) : Host.Outcome State Fault Refusal :=
  perform (branch2 (approxZero s.params.approxEps) jumpBy a b c) s

/-- `bna a b c d` (R962). -/
def execBna (a : ValOp) (b : ValOp) (c : ValOp) (e : ValOp) (s : State) : Host.Outcome State Fault Refusal :=
  perform (branch3 (fun x y z => !approx s.params.approxEps x y z) jumpTo a b c e) s

/-- `bnaal a b c d` (R963). -/
def execBnaal (a : ValOp) (b : ValOp) (c : ValOp) (e : ValOp) (s : State) : Host.Outcome State Fault Refusal :=
  perform (branch3 (fun x y z => !approx s.params.approxEps x y z) callTo a b c e) s

/-- `brna a b c d` (R964). -/
def execBrna (a : ValOp) (b : ValOp) (c : ValOp) (e : ValOp) (s : State) : Host.Outcome State Fault Refusal :=
  perform (branch3 (fun x y z => !approx s.params.approxEps x y z) jumpBy a b c e) s

/-- `bnaz a b c` (R965). -/
def execBnaz (a : ValOp) (b : ValOp) (c : ValOp) (s : State) : Host.Outcome State Fault Refusal :=
  perform (branch2 (fun x y => !approxZero s.params.approxEps x y) jumpTo a b c) s

/-- `bnazal a b c` (R966). -/
def execBnazal (a : ValOp) (b : ValOp) (c : ValOp) (s : State) : Host.Outcome State Fault Refusal :=
  perform (branch2 (fun x y => !approxZero s.params.approxEps x y) callTo a b c) s

/-- `brnaz a b c` (R967). -/
def execBrnaz (a : ValOp) (b : ValOp) (c : ValOp) (s : State) : Host.Outcome State Fault Refusal :=
  perform (branch2 (fun x y => !approxZero s.params.approxEps x y) jumpBy a b c) s

/-- `bnan a b` (R968). -/
def execBnan (a : ValOp) (b : ValOp) (s : State) : Host.Outcome State Fault Refusal :=
  perform (branch1 F64.isNaN jumpTo a b) s

/-- `brnan a b` (R969). -/
def execBrnan (a : ValOp) (b : ValOp) (s : State) : Host.Outcome State Fault Refusal :=
  perform (branch1 F64.isNaN jumpBy a b) s

/-- `bdse d? a` (R970). -/
def execBdse (d : PinOp) (a : ValOp) (s : State) : Host.Outcome State Fault Refusal :=
  perform (branchPin Option.isSome jumpTo d a) s

/-- `bdseal d? a` (R971). -/
def execBdseal (d : PinOp) (a : ValOp) (s : State) : Host.Outcome State Fault Refusal :=
  perform (branchPin Option.isSome callTo d a) s

/-- `brdse d? a` (R972). -/
def execBrdse (d : PinOp) (a : ValOp) (s : State) : Host.Outcome State Fault Refusal :=
  perform (branchPin Option.isSome jumpBy d a) s

/-- `bdns d? a` (R973). -/
def execBdns (d : PinOp) (a : ValOp) (s : State) : Host.Outcome State Fault Refusal :=
  perform (branchPin Option.isNone jumpTo d a) s

/-- `bdnsal d? a` (R974). -/
def execBdnsal (d : PinOp) (a : ValOp) (s : State) : Host.Outcome State Fault Refusal :=
  perform (branchPin Option.isNone callTo d a) s

/-- `brdns d? a` (R975). -/
def execBrdns (d : PinOp) (a : ValOp) (s : State) : Host.Outcome State Fault Refusal :=
  perform (branchPin Option.isNone jumpBy d a) s

end Sys2Proof.Machine
end

