-- ==== Sys2Proof/Machine/Device.lean ====
section
/-! DEFINITION. Device I/O and network batch instructions (43_device.md). All operands are resolved, left to right,
before the device calls begin (30_encoding.md R328; 60_exceptions.md R1112; log 13). -/

namespace Sys2Proof.Machine

/-- A network load (R707, R708, R740): one handle set, a read from each handle, and their aggregate. -/
def loadBatch (dst : Cell) (typeHash : F64) (nameHash : Option F64) (m : BatchMode) (read : Handle → M F64) :
    M Unit := do
  let hs ← resolveHash typeHash nameHash
  let vs ← readEach read hs
  setCell dst (aggregate m vs)

/-- A network store (R708, R744): one handle set and a write to each handle. -/
def storeBatch (typeHash : F64) (nameHash : Option F64) (write : Handle → M Unit) : M Unit := do
  let hs ← resolveHash typeHash nameHash
  writeEach write hs

/-- `l r? d? logicType` (R710). -/
def execL (r : RegOp) (d : PinOp) (k : KeyOp) (s : State) : Host.Outcome State Fault Refusal :=
  perform (do
    let dst ← dest r
    let h ← pin d
    let kk ← key k
    let dev ← need h
    let v ← devRead dev kk
    setCell dst v) s

/-- `s d? logicType a` (R711). -/
def execS (d : PinOp) (k : KeyOp) (a : ValOp) (s : State) : Host.Outcome State Fault Refusal :=
  perform (do
    let h ← pin d
    let kk ← key k
    let v ← value a
    let dev ← need h
    devWrite dev kk v) s

/-- `ls r? d? slotIndex logicSlotType` (R712). -/
def execLs (r : RegOp) (d : PinOp) (sl : ValOp) (k : KeyOp) (s : State) : Host.Outcome State Fault Refusal :=
  perform (do
    let dst ← dest r
    let h ← pin d
    let i ← value sl
    let kk ← key k
    let dev ← need h
    let v ← devReadSlot dev i kk
    setCell dst v) s

/-- `ss d? slotIndex logicSlotType a` (R713). -/
def execSs (d : PinOp) (sl : ValOp) (k : KeyOp) (a : ValOp) (s : State) : Host.Outcome State Fault Refusal :=
  perform (do
    let h ← pin d
    let i ← value sl
    let kk ← key k
    let v ← value a
    let dev ← need h
    devWriteSlot dev i kk v) s

/-- `lr r? d? reagentMode a` (R714). -/
def execLr (r : RegOp) (d : PinOp) (k : KeyOp) (a : ValOp) (s : State) : Host.Outcome State Fault Refusal :=
  perform (do
    let dst ← dest r
    let h ← pin d
    let kk ← key k
    let x ← value a
    let dev ← need h
    let v ← devReadReagent dev kk x
    setCell dst v) s

/-- `ld r? id logicType` (R715). -/
def execLd (r : RegOp) (id : ValOp) (k : KeyOp) (s : State) : Host.Outcome State Fault Refusal :=
  perform (do
    let dst ← dest r
    let i ← value id
    let kk ← key k
    let dev ← need (← resolveId i)
    let v ← devRead dev kk
    setCell dst v) s

/-- `sd id logicType a` (R716). -/
def execSd (id : ValOp) (k : KeyOp) (a : ValOp) (s : State) : Host.Outcome State Fault Refusal :=
  perform (do
    let i ← value id
    let kk ← key k
    let v ← value a
    let dev ← need (← resolveId i)
    devWrite dev kk v) s

/-- `get r? d? address` (R720). -/
def execGet (r : RegOp) (d : PinOp) (addr : ValOp) (s : State) : Host.Outcome State Fault Refusal :=
  perform (do
    let dst ← dest r
    let h ← pin d
    let x ← value addr
    let dev ← need h
    let v ← devReadMem dev x
    setCell dst v) s

/-- `put d? address a` (R721). -/
def execPut (d : PinOp) (addr : ValOp) (a : ValOp) (s : State) : Host.Outcome State Fault Refusal :=
  perform (do
    let h ← pin d
    let x ← value addr
    let v ← value a
    let dev ← need h
    devWriteMem dev x v) s

/-- `getd r? id address` (R722). -/
def execGetd (r : RegOp) (id : ValOp) (addr : ValOp) (s : State) : Host.Outcome State Fault Refusal :=
  perform (do
    let dst ← dest r
    let i ← value id
    let x ← value addr
    let dev ← need (← resolveId i)
    let v ← devReadMem dev x
    setCell dst v) s

/-- `putd id address a` (R723). -/
def execPutd (id : ValOp) (addr : ValOp) (a : ValOp) (s : State) : Host.Outcome State Fault Refusal :=
  perform (do
    let i ← value id
    let x ← value addr
    let v ← value a
    let dev ← need (← resolveId i)
    devWriteMem dev x v) s

/-- `clr d?` (R724). -/
def execClr (d : PinOp) (s : State) : Host.Outcome State Fault Refusal :=
  perform (do
    let h ← pin d
    let dev ← need h
    devClearMem dev) s

/-- `clrd id` (R725). -/
def execClrd (id : ValOp) (s : State) : Host.Outcome State Fault Refusal :=
  perform (do
    let i ← value id
    let dev ← need (← resolveId i)
    devClearMem dev) s

/-- `sdse r? d?` (R726). -/
def execSdse (r : RegOp) (d : PinOp) (s : State) : Host.Outcome State Fault Refusal :=
  perform (do
    let dst ← dest r
    let h ← pin d
    setCell dst (F64.ofBool h.isSome)) s

/-- `sdns r? d?` (R727). -/
def execSdns (r : RegOp) (d : PinOp) (s : State) : Host.Outcome State Fault Refusal :=
  perform (do
    let dst ← dest r
    let h ← pin d
    setCell dst (F64.ofBool h.isNone)) s

/-- `lb r? deviceHash logicType batchMode` (R740). -/
def execLb (r : RegOp) (th : ValOp) (k : KeyOp) (m : ModeOp) (s : State) : Host.Outcome State Fault Refusal :=
  perform (do
    let dst ← dest r
    let t ← value th
    let kk ← key k
    let mm ← mode m
    loadBatch dst t none mm fun h => devRead h kk) s

/-- `lbn r? deviceHash nameHash logicType batchMode` (R741). -/
def execLbn (r : RegOp) (th : ValOp) (nm : ValOp) (k : KeyOp) (m : ModeOp) (s : State) : Host.Outcome State Fault Refusal :=
  perform (do
    let dst ← dest r
    let t ← value th
    let n ← value nm
    let kk ← key k
    let mm ← mode m
    loadBatch dst t (some n) mm fun h => devRead h kk) s

/-- `lbs r? deviceHash slotIndex logicSlotType batchMode` (R742). -/
def execLbs (r : RegOp) (th : ValOp) (sl : ValOp) (k : KeyOp) (m : ModeOp) (s : State) : Host.Outcome State Fault Refusal :=
  perform (do
    let dst ← dest r
    let t ← value th
    let i ← value sl
    let kk ← key k
    let mm ← mode m
    loadBatch dst t none mm fun h => devReadSlot h i kk) s

/-- `lbns r? deviceHash nameHash slotIndex logicSlotType batchMode` (R743). -/
def execLbns (r : RegOp) (th : ValOp) (nm : ValOp) (sl : ValOp) (k : KeyOp) (m : ModeOp) (s : State) : Host.Outcome State Fault Refusal :=
  perform (do
    let dst ← dest r
    let t ← value th
    let n ← value nm
    let i ← value sl
    let kk ← key k
    let mm ← mode m
    loadBatch dst t (some n) mm fun h => devReadSlot h i kk) s

/-- `sb deviceHash logicType a` (R744). -/
def execSb (th : ValOp) (k : KeyOp) (a : ValOp) (s : State) : Host.Outcome State Fault Refusal :=
  perform (do
    let t ← value th
    let kk ← key k
    let v ← value a
    storeBatch t none fun h => devWrite h kk v) s

/-- `sbn deviceHash nameHash logicType a` (R745). -/
def execSbn (th : ValOp) (nm : ValOp) (k : KeyOp) (a : ValOp) (s : State) : Host.Outcome State Fault Refusal :=
  perform (do
    let t ← value th
    let n ← value nm
    let kk ← key k
    let v ← value a
    storeBatch t (some n) fun h => devWrite h kk v) s

/-- `sbs deviceHash slotIndex logicSlotType a` (R746). -/
def execSbs (th : ValOp) (sl : ValOp) (k : KeyOp) (a : ValOp) (s : State) : Host.Outcome State Fault Refusal :=
  perform (do
    let t ← value th
    let i ← value sl
    let kk ← key k
    let v ← value a
    storeBatch t none fun h => devWriteSlot h i kk v) s

end Sys2Proof.Machine
end

