-- ==== Sys2Proof/Machine/Stack.lean ====
section
/-! DEFINITION. Stack instructions (44_stack.md R800 to R814). -/

namespace Sys2Proof.Machine

/-- `push a` (R810). For `-1 < sp < 0` it follows the pseudocode, which truncates to cell 0, and not the rule's prose
(DEDUCED, log 35). -/
def execPush (a : ValOp) (s : State) : Host.Outcome State Fault Refusal :=
  perform (do
    let v ← value a
    let i ← look fun t => stackAddr (t.readCell .sp)
    setStack i v
    setCell .sp (F64.ofNat (i + 1))) s

/-- `pop r?` (R811). -/
def execPop (r : RegOp) (s : State) : Host.Outcome State Fault Refusal :=
  perform (do
    let dst ← dest r
    let i ← look fun t => stackAddr (F64.sub (t.readCell .sp) F64.one)
    let v ← look fun t => .ok (t.stack.read i)
    setCell .sp (F64.ofNat i)
    setCell dst v) s

/-- `peek r?` (R812). -/
def execPeek (r : RegOp) (s : State) : Host.Outcome State Fault Refusal :=
  perform (do
    let dst ← dest r
    let i ← look fun t => stackAddr (F64.sub (t.readCell .sp) F64.one)
    let v ← look fun t => .ok (t.stack.read i)
    setCell dst v) s

/-- `poke a b` (R813). -/
def execPoke (a : ValOp) (b : ValOp) (s : State) : Host.Outcome State Fault Refusal :=
  perform (do
    let x ← value a
    let v ← value b
    let i ← look fun _ => stackAddr x
    setStack i v) s

end Sys2Proof.Machine
end

