-- ==== Sys2Proof/Machine/System.lean ====
section
/-! DEFINITION. No-operation, scheduling, halt and symbol binding (46_system.md). -/

namespace Sys2Proof.Machine

/-- The duration `sleep` uses: NaN and negative durations are 0 (R1002). -/
def sleepTime (v : F64) : F64 := if F64.isNaN v || F64.lt v F64.zero then F64.zero else v

/-- Suspend until `now + d` (R144, R1002). -/
def State.sleepFor (s : State) (d : F64) : State :=
  { s with status := .sleeping (F64.add s.now d), resume := some (F64.add s.now d) }

/-- The empty line and the label lines (R1000). -/
def execNop (s : State) : Host.Outcome State Fault Refusal :=
  perform (pure ()) s

/-- `yield` (R1001). -/
def execYield (s : State) : Host.Outcome State Fault Refusal :=
  perform (update fun t => { t with status := .yielded }) s

/-- `sleep a` (R1002). -/
def execSleep (a : ValOp) (s : State) : Host.Outcome State Fault Refusal :=
  perform (do
    let v ← value a
    update fun t => t.sleepFor (sleepTime v)) s

/-- `hcf` (R1003). -/
def execHcf (s : State) : Host.Outcome State Fault Refusal :=
  perform (raise .halt) s

/-- `alias str target` (R1010). -/
def execAliasOp (str : Ident) (target : Target) (s : State) : Host.Outcome State Fault Refusal :=
  perform (update fun t => { t with aliases := bindIn t.aliases str target }) s

/-- `define str num` (R1011). -/
def execDefine (str : Ident) (v : F64) (s : State) : Host.Outcome State Fault Refusal :=
  perform (update fun t => { t with defines := if (lookupIn t.defines str).isNone then bindIn t.defines str v else t.defines }) s

/-- `label d? str` (R1012): no run-time effect, and no operand is resolved. -/
def execLabel (_d : PinOp) (_str : Ident) (s : State) : Host.Outcome State Fault Refusal :=
  perform (pure ()) s

end Sys2Proof.Machine
end

