-- ==== Sys2Proof/Machine/Dispatch.lean ====
section
/-! DEFINITION. The instruction dispatcher (30_encoding.md R311): it routes each instruction to its meaning. -/

namespace Sys2Proof.Machine

/-- What an instruction does, before the sequencer moves the program counter (10_state.md R150 (3)). -/
def exec (i : Instr) (s : State) : Host.Outcome State Fault Refusal :=
  match i with
  | .nop => Sys2Proof.Machine.execNop s
  | .abs r a => Sys2Proof.Machine.execAbs r a s
  | .acos r a => Sys2Proof.Machine.execAcos r a s
  | .add r a b => Sys2Proof.Machine.execAdd r a b s
  | .aliasOp str target => Sys2Proof.Machine.execAliasOp str target s
  | .and r a b => Sys2Proof.Machine.execAnd r a b s
  | .asin r a => Sys2Proof.Machine.execAsin r a s
  | .atan r a => Sys2Proof.Machine.execAtan r a s
  | .atan2 r a b => Sys2Proof.Machine.execAtan2 r a b s
  | .bap a b c e => Sys2Proof.Machine.execBap a b c e s
  | .bapal a b c e => Sys2Proof.Machine.execBapal a b c e s
  | .bapz a b c => Sys2Proof.Machine.execBapz a b c s
  | .bapzal a b c => Sys2Proof.Machine.execBapzal a b c s
  | .bdns d a => Sys2Proof.Machine.execBdns d a s
  | .bdnsal d a => Sys2Proof.Machine.execBdnsal d a s
  | .bdse d a => Sys2Proof.Machine.execBdse d a s
  | .bdseal d a => Sys2Proof.Machine.execBdseal d a s
  | .beq a b c => Sys2Proof.Machine.execBeq a b c s
  | .beqal a b c => Sys2Proof.Machine.execBeqal a b c s
  | .beqz a b => Sys2Proof.Machine.execBeqz a b s
  | .beqzal a b => Sys2Proof.Machine.execBeqzal a b s
  | .bge a b c => Sys2Proof.Machine.execBge a b c s
  | .bgeal a b c => Sys2Proof.Machine.execBgeal a b c s
  | .bgez a b => Sys2Proof.Machine.execBgez a b s
  | .bgezal a b => Sys2Proof.Machine.execBgezal a b s
  | .bgt a b c => Sys2Proof.Machine.execBgt a b c s
  | .bgtal a b c => Sys2Proof.Machine.execBgtal a b c s
  | .bgtz a b => Sys2Proof.Machine.execBgtz a b s
  | .bgtzal a b => Sys2Proof.Machine.execBgtzal a b s
  | .ble a b c => Sys2Proof.Machine.execBle a b c s
  | .bleal a b c => Sys2Proof.Machine.execBleal a b c s
  | .blez a b => Sys2Proof.Machine.execBlez a b s
  | .blezal a b => Sys2Proof.Machine.execBlezal a b s
  | .blt a b c => Sys2Proof.Machine.execBlt a b c s
  | .bltal a b c => Sys2Proof.Machine.execBltal a b c s
  | .bltz a b => Sys2Proof.Machine.execBltz a b s
  | .bltzal a b => Sys2Proof.Machine.execBltzal a b s
  | .bna a b c e => Sys2Proof.Machine.execBna a b c e s
  | .bnaal a b c e => Sys2Proof.Machine.execBnaal a b c e s
  | .bnan a b => Sys2Proof.Machine.execBnan a b s
  | .bnaz a b c => Sys2Proof.Machine.execBnaz a b c s
  | .bnazal a b c => Sys2Proof.Machine.execBnazal a b c s
  | .bne a b c => Sys2Proof.Machine.execBne a b c s
  | .bneal a b c => Sys2Proof.Machine.execBneal a b c s
  | .bnez a b => Sys2Proof.Machine.execBnez a b s
  | .bnezal a b => Sys2Proof.Machine.execBnezal a b s
  | .brap a b c e => Sys2Proof.Machine.execBrap a b c e s
  | .brapz a b c => Sys2Proof.Machine.execBrapz a b c s
  | .brdns d a => Sys2Proof.Machine.execBrdns d a s
  | .brdse d a => Sys2Proof.Machine.execBrdse d a s
  | .breq a b c => Sys2Proof.Machine.execBreq a b c s
  | .breqz a b => Sys2Proof.Machine.execBreqz a b s
  | .brge a b c => Sys2Proof.Machine.execBrge a b c s
  | .brgez a b => Sys2Proof.Machine.execBrgez a b s
  | .brgt a b c => Sys2Proof.Machine.execBrgt a b c s
  | .brgtz a b => Sys2Proof.Machine.execBrgtz a b s
  | .brle a b c => Sys2Proof.Machine.execBrle a b c s
  | .brlez a b => Sys2Proof.Machine.execBrlez a b s
  | .brlt a b c => Sys2Proof.Machine.execBrlt a b c s
  | .brltz a b => Sys2Proof.Machine.execBrltz a b s
  | .brna a b c e => Sys2Proof.Machine.execBrna a b c e s
  | .brnan a b => Sys2Proof.Machine.execBrnan a b s
  | .brnaz a b c => Sys2Proof.Machine.execBrnaz a b c s
  | .brne a b c => Sys2Proof.Machine.execBrne a b c s
  | .brnez a b => Sys2Proof.Machine.execBrnez a b s
  | .ceil r a => Sys2Proof.Machine.execCeil r a s
  | .clr d => Sys2Proof.Machine.execClr d s
  | .clrd id => Sys2Proof.Machine.execClrd id s
  | .cos r a => Sys2Proof.Machine.execCos r a s
  | .define str v => Sys2Proof.Machine.execDefine str v s
  | .div r a b => Sys2Proof.Machine.execDiv r a b s
  | .exp r a => Sys2Proof.Machine.execExp r a s
  | .floor r a => Sys2Proof.Machine.execFloor r a s
  | .get r d addr => Sys2Proof.Machine.execGet r d addr s
  | .getd r id addr => Sys2Proof.Machine.execGetd r id addr s
  | .hcf => Sys2Proof.Machine.execHcf s
  | .j a => Sys2Proof.Machine.execJ a s
  | .jal a => Sys2Proof.Machine.execJal a s
  | .jr a => Sys2Proof.Machine.execJr a s
  | .l r d k => Sys2Proof.Machine.execL r d k s
  | .label d str => Sys2Proof.Machine.execLabel d str s
  | .lb r th k m => Sys2Proof.Machine.execLb r th k m s
  | .lbn r th nm k m => Sys2Proof.Machine.execLbn r th nm k m s
  | .lbns r th nm sl k m => Sys2Proof.Machine.execLbns r th nm sl k m s
  | .lbs r th sl k m => Sys2Proof.Machine.execLbs r th sl k m s
  | .ld r id k => Sys2Proof.Machine.execLd r id k s
  | .log r a => Sys2Proof.Machine.execLog r a s
  | .lr r d k a => Sys2Proof.Machine.execLr r d k a s
  | .ls r d sl k => Sys2Proof.Machine.execLs r d sl k s
  | .max r a b => Sys2Proof.Machine.execMax r a b s
  | .min r a b => Sys2Proof.Machine.execMin r a b s
  | .mod r a b => Sys2Proof.Machine.execMod r a b s
  | .move r a => Sys2Proof.Machine.execMove r a s
  | .mul r a b => Sys2Proof.Machine.execMul r a b s
  | .nor r a b => Sys2Proof.Machine.execNor r a b s
  | .not r a => Sys2Proof.Machine.execNot r a s
  | .or r a b => Sys2Proof.Machine.execOr r a b s
  | .peek r => Sys2Proof.Machine.execPeek r s
  | .poke a b => Sys2Proof.Machine.execPoke a b s
  | .pop r => Sys2Proof.Machine.execPop r s
  | .push a => Sys2Proof.Machine.execPush a s
  | .put d addr a => Sys2Proof.Machine.execPut d addr a s
  | .putd id addr a => Sys2Proof.Machine.execPutd id addr a s
  | .rand r => Sys2Proof.Machine.execRand r s
  | .round r a => Sys2Proof.Machine.execRound r a s
  | .s d k a => Sys2Proof.Machine.execS d k a s
  | .sap r a b c => Sys2Proof.Machine.execSap r a b c s
  | .sapz r a b => Sys2Proof.Machine.execSapz r a b s
  | .sb th k a => Sys2Proof.Machine.execSb th k a s
  | .sbn th nm k a => Sys2Proof.Machine.execSbn th nm k a s
  | .sbs th sl k a => Sys2Proof.Machine.execSbs th sl k a s
  | .sd id k a => Sys2Proof.Machine.execSd id k a s
  | .sdns r d => Sys2Proof.Machine.execSdns r d s
  | .sdse r d => Sys2Proof.Machine.execSdse r d s
  | .select r a b c => Sys2Proof.Machine.execSelect r a b c s
  | .seq r a b => Sys2Proof.Machine.execSeq r a b s
  | .seqz r a => Sys2Proof.Machine.execSeqz r a s
  | .sge r a b => Sys2Proof.Machine.execSge r a b s
  | .sgez r a => Sys2Proof.Machine.execSgez r a s
  | .sgt r a b => Sys2Proof.Machine.execSgt r a b s
  | .sgtz r a => Sys2Proof.Machine.execSgtz r a s
  | .sin r a => Sys2Proof.Machine.execSin r a s
  | .sla r a b => Sys2Proof.Machine.execSla r a b s
  | .sle r a b => Sys2Proof.Machine.execSle r a b s
  | .sleep a => Sys2Proof.Machine.execSleep a s
  | .slez r a => Sys2Proof.Machine.execSlez r a s
  | .sll r a b => Sys2Proof.Machine.execSll r a b s
  | .slt r a b => Sys2Proof.Machine.execSlt r a b s
  | .sltz r a => Sys2Proof.Machine.execSltz r a s
  | .sna r a b c => Sys2Proof.Machine.execSna r a b c s
  | .snan r a => Sys2Proof.Machine.execSnan r a s
  | .snanz r a => Sys2Proof.Machine.execSnanz r a s
  | .snaz r a b => Sys2Proof.Machine.execSnaz r a b s
  | .sne r a b => Sys2Proof.Machine.execSne r a b s
  | .snez r a => Sys2Proof.Machine.execSnez r a s
  | .sqrt r a => Sys2Proof.Machine.execSqrt r a s
  | .sra r a b => Sys2Proof.Machine.execSra r a b s
  | .srl r a b => Sys2Proof.Machine.execSrl r a b s
  | .ss d sl k a => Sys2Proof.Machine.execSs d sl k a s
  | .sub r a b => Sys2Proof.Machine.execSub r a b s
  | .tan r a => Sys2Proof.Machine.execTan r a s
  | .trunc r a => Sys2Proof.Machine.execTrunc r a s
  | .xor r a b => Sys2Proof.Machine.execXor r a b s
  | .yield => Sys2Proof.Machine.execYield s

end Sys2Proof.Machine
end

