-- ==== Sys2Proof/Machine/Record.lean ====
section
/-! DEFINITION. The decoded instruction record (30_encoding.md R310): opcode tag, slot kinds and operand
descriptors of every instruction, and the opcode table itself (R312, R350). -/

namespace Sys2Proof

/-- The kinds of operand slots (R314). -/
inductive Slot where
  | reg | val | pin | lt | slt | rm | bm | newName | target | num
  deriving DecidableEq, Repr

/-! ### Operand descriptors of typed operands, and back -/

namespace Operand

def ofRegOp : RegOp → Operand
  | .reg r => .reg r
  | .name s => .name s

def ofValOp : ValOp → Operand
  | .reg r => .reg r
  | .num v => .num v
  | .name s => .name s

def ofPinOp : PinOp → Operand
  | .pin p => .pin p
  | .name s => .name s

def ofKeyOp : KeyOp → Operand
  | .key s => .key s
  | .val v => ofValOp v

def ofModeOp : ModeOp → Operand
  | .mode m => .mode m
  | .val v => ofValOp v

def ofTarget : Target → Operand
  | .reg r => .reg r
  | .pin p => .pin p

def toRegOp : Operand → Option RegOp
  | .reg r => some (.reg r)
  | .name s => some (.name s)
  | _ => none

def toValOp : Operand → Option ValOp
  | .reg r => some (.reg r)
  | .num v => some (.num v)
  | .name s => some (.name s)
  | _ => none

def toPinOp : Operand → Option PinOp
  | .pin p => some (.pin p)
  | .name s => some (.name s)
  | _ => none

def toKeyOp : Operand → Option KeyOp
  | .key s => some (.key s)
  | o => o.toValOp.map .val

def toModeOp : Operand → Option ModeOp
  | .mode m => some (.mode m)
  | o => o.toValOp.map .val

def toTarget : Operand → Option Target
  | .reg r => some (.reg r)
  | .pin p => some (.pin p)
  | _ => none

def toNewName : Operand → Option Ident
  | .newName s => some s
  | _ => none

def toNum : Operand → Option F64
  | .num v => some v
  | _ => none

end Operand

/-! ### Building an instruction from its operand list, one operand at a time -/

namespace Build

/-- An instruction from the operands still to come. -/
abbrev Rest := List Operand → Option Instr

/-- No operand is left. -/
def done (i : Instr) : Rest
  | [] => some i
  | _ :: _ => none

/-- Take one operand, converted to its slot's type. -/
def take {α : Type} (conv : Operand → Option α) (k : α → Rest) : Rest
  | [] => none
  | o :: os =>
    match conv o with
    | some a => k a os
    | none => none

def withReg : (RegOp → Rest) → Rest := take Operand.toRegOp
def withVal : (ValOp → Rest) → Rest := take Operand.toValOp
def withPin : (PinOp → Rest) → Rest := take Operand.toPinOp
def withKey : (KeyOp → Rest) → Rest := take Operand.toKeyOp
def withMode : (ModeOp → Rest) → Rest := take Operand.toModeOp
def withTarget : (Target → Rest) → Rest := take Operand.toTarget
def withNewName : (Ident → Rest) → Rest := take Operand.toNewName
def withNum : (F64 → Rest) → Rest := take Operand.toNum

end Build

/-! ### The opcode table -/

/-- A row of the opcode table: tag, mnemonic in lower case, slot kinds, and how the instruction is built from
its operands. -/
structure OpRow where
  tag : Nat
  mnemonic : Ident
  slots : List Slot
  build : Build.Rest

open Build

/-- Rows 0 to 23 of the opcode table (R312, R350). -/
def opcodeRows0 : List OpRow :=
  [ ⟨0, ascii [], [], done (.nop)⟩,
    ⟨1, ascii ['a', 'b', 's'], [.reg, .val], withReg fun r => withVal fun a => done (.abs r a)⟩,
    ⟨2, ascii ['a', 'c', 'o', 's'], [.reg, .val], withReg fun r => withVal fun a => done (.acos r a)⟩,
    ⟨3, ascii ['a', 'd', 'd'], [.reg, .val, .val], withReg fun r => withVal fun a => withVal fun b => done (.add r a b)⟩,
    ⟨4, ascii ['a', 'l', 'i', 'a', 's'], [.newName, .target], withNewName fun str => withTarget fun target => done (.aliasOp str target)⟩,
    ⟨5, ascii ['a', 'n', 'd'], [.reg, .val, .val], withReg fun r => withVal fun a => withVal fun b => done (.and r a b)⟩,
    ⟨6, ascii ['a', 's', 'i', 'n'], [.reg, .val], withReg fun r => withVal fun a => done (.asin r a)⟩,
    ⟨7, ascii ['a', 't', 'a', 'n'], [.reg, .val], withReg fun r => withVal fun a => done (.atan r a)⟩,
    ⟨8, ascii ['a', 't', 'a', 'n', '2'], [.reg, .val, .val], withReg fun r => withVal fun a => withVal fun b => done (.atan2 r a b)⟩,
    ⟨9, ascii ['b', 'a', 'p'], [.val, .val, .val, .val], withVal fun a => withVal fun b => withVal fun c => withVal fun e => done (.bap a b c e)⟩,
    ⟨10, ascii ['b', 'a', 'p', 'a', 'l'], [.val, .val, .val, .val], withVal fun a => withVal fun b => withVal fun c => withVal fun e => done (.bapal a b c e)⟩,
    ⟨11, ascii ['b', 'a', 'p', 'z'], [.val, .val, .val], withVal fun a => withVal fun b => withVal fun c => done (.bapz a b c)⟩,
    ⟨12, ascii ['b', 'a', 'p', 'z', 'a', 'l'], [.val, .val, .val], withVal fun a => withVal fun b => withVal fun c => done (.bapzal a b c)⟩,
    ⟨13, ascii ['b', 'd', 'n', 's'], [.pin, .val], withPin fun d => withVal fun a => done (.bdns d a)⟩,
    ⟨14, ascii ['b', 'd', 'n', 's', 'a', 'l'], [.pin, .val], withPin fun d => withVal fun a => done (.bdnsal d a)⟩,
    ⟨15, ascii ['b', 'd', 's', 'e'], [.pin, .val], withPin fun d => withVal fun a => done (.bdse d a)⟩,
    ⟨16, ascii ['b', 'd', 's', 'e', 'a', 'l'], [.pin, .val], withPin fun d => withVal fun a => done (.bdseal d a)⟩,
    ⟨17, ascii ['b', 'e', 'q'], [.val, .val, .val], withVal fun a => withVal fun b => withVal fun c => done (.beq a b c)⟩,
    ⟨18, ascii ['b', 'e', 'q', 'a', 'l'], [.val, .val, .val], withVal fun a => withVal fun b => withVal fun c => done (.beqal a b c)⟩,
    ⟨19, ascii ['b', 'e', 'q', 'z'], [.val, .val], withVal fun a => withVal fun b => done (.beqz a b)⟩,
    ⟨20, ascii ['b', 'e', 'q', 'z', 'a', 'l'], [.val, .val], withVal fun a => withVal fun b => done (.beqzal a b)⟩,
    ⟨21, ascii ['b', 'g', 'e'], [.val, .val, .val], withVal fun a => withVal fun b => withVal fun c => done (.bge a b c)⟩,
    ⟨22, ascii ['b', 'g', 'e', 'a', 'l'], [.val, .val, .val], withVal fun a => withVal fun b => withVal fun c => done (.bgeal a b c)⟩,
    ⟨23, ascii ['b', 'g', 'e', 'z'], [.val, .val], withVal fun a => withVal fun b => done (.bgez a b)⟩ ]

/-- Rows 24 to 47 of the opcode table (R312, R350). -/
def opcodeRows1 : List OpRow :=
  [ ⟨24, ascii ['b', 'g', 'e', 'z', 'a', 'l'], [.val, .val], withVal fun a => withVal fun b => done (.bgezal a b)⟩,
    ⟨25, ascii ['b', 'g', 't'], [.val, .val, .val], withVal fun a => withVal fun b => withVal fun c => done (.bgt a b c)⟩,
    ⟨26, ascii ['b', 'g', 't', 'a', 'l'], [.val, .val, .val], withVal fun a => withVal fun b => withVal fun c => done (.bgtal a b c)⟩,
    ⟨27, ascii ['b', 'g', 't', 'z'], [.val, .val], withVal fun a => withVal fun b => done (.bgtz a b)⟩,
    ⟨28, ascii ['b', 'g', 't', 'z', 'a', 'l'], [.val, .val], withVal fun a => withVal fun b => done (.bgtzal a b)⟩,
    ⟨29, ascii ['b', 'l', 'e'], [.val, .val, .val], withVal fun a => withVal fun b => withVal fun c => done (.ble a b c)⟩,
    ⟨30, ascii ['b', 'l', 'e', 'a', 'l'], [.val, .val, .val], withVal fun a => withVal fun b => withVal fun c => done (.bleal a b c)⟩,
    ⟨31, ascii ['b', 'l', 'e', 'z'], [.val, .val], withVal fun a => withVal fun b => done (.blez a b)⟩,
    ⟨32, ascii ['b', 'l', 'e', 'z', 'a', 'l'], [.val, .val], withVal fun a => withVal fun b => done (.blezal a b)⟩,
    ⟨33, ascii ['b', 'l', 't'], [.val, .val, .val], withVal fun a => withVal fun b => withVal fun c => done (.blt a b c)⟩,
    ⟨34, ascii ['b', 'l', 't', 'a', 'l'], [.val, .val, .val], withVal fun a => withVal fun b => withVal fun c => done (.bltal a b c)⟩,
    ⟨35, ascii ['b', 'l', 't', 'z'], [.val, .val], withVal fun a => withVal fun b => done (.bltz a b)⟩,
    ⟨36, ascii ['b', 'l', 't', 'z', 'a', 'l'], [.val, .val], withVal fun a => withVal fun b => done (.bltzal a b)⟩,
    ⟨37, ascii ['b', 'n', 'a'], [.val, .val, .val, .val], withVal fun a => withVal fun b => withVal fun c => withVal fun e => done (.bna a b c e)⟩,
    ⟨38, ascii ['b', 'n', 'a', 'a', 'l'], [.val, .val, .val, .val], withVal fun a => withVal fun b => withVal fun c => withVal fun e => done (.bnaal a b c e)⟩,
    ⟨39, ascii ['b', 'n', 'a', 'n'], [.val, .val], withVal fun a => withVal fun b => done (.bnan a b)⟩,
    ⟨40, ascii ['b', 'n', 'a', 'z'], [.val, .val, .val], withVal fun a => withVal fun b => withVal fun c => done (.bnaz a b c)⟩,
    ⟨41, ascii ['b', 'n', 'a', 'z', 'a', 'l'], [.val, .val, .val], withVal fun a => withVal fun b => withVal fun c => done (.bnazal a b c)⟩,
    ⟨42, ascii ['b', 'n', 'e'], [.val, .val, .val], withVal fun a => withVal fun b => withVal fun c => done (.bne a b c)⟩,
    ⟨43, ascii ['b', 'n', 'e', 'a', 'l'], [.val, .val, .val], withVal fun a => withVal fun b => withVal fun c => done (.bneal a b c)⟩,
    ⟨44, ascii ['b', 'n', 'e', 'z'], [.val, .val], withVal fun a => withVal fun b => done (.bnez a b)⟩,
    ⟨45, ascii ['b', 'n', 'e', 'z', 'a', 'l'], [.val, .val], withVal fun a => withVal fun b => done (.bnezal a b)⟩,
    ⟨46, ascii ['b', 'r', 'a', 'p'], [.val, .val, .val, .val], withVal fun a => withVal fun b => withVal fun c => withVal fun e => done (.brap a b c e)⟩,
    ⟨47, ascii ['b', 'r', 'a', 'p', 'z'], [.val, .val, .val], withVal fun a => withVal fun b => withVal fun c => done (.brapz a b c)⟩ ]

/-- Rows 48 to 71 of the opcode table (R312, R350). -/
def opcodeRows2 : List OpRow :=
  [ ⟨48, ascii ['b', 'r', 'd', 'n', 's'], [.pin, .val], withPin fun d => withVal fun a => done (.brdns d a)⟩,
    ⟨49, ascii ['b', 'r', 'd', 's', 'e'], [.pin, .val], withPin fun d => withVal fun a => done (.brdse d a)⟩,
    ⟨50, ascii ['b', 'r', 'e', 'q'], [.val, .val, .val], withVal fun a => withVal fun b => withVal fun c => done (.breq a b c)⟩,
    ⟨51, ascii ['b', 'r', 'e', 'q', 'z'], [.val, .val], withVal fun a => withVal fun b => done (.breqz a b)⟩,
    ⟨52, ascii ['b', 'r', 'g', 'e'], [.val, .val, .val], withVal fun a => withVal fun b => withVal fun c => done (.brge a b c)⟩,
    ⟨53, ascii ['b', 'r', 'g', 'e', 'z'], [.val, .val], withVal fun a => withVal fun b => done (.brgez a b)⟩,
    ⟨54, ascii ['b', 'r', 'g', 't'], [.val, .val, .val], withVal fun a => withVal fun b => withVal fun c => done (.brgt a b c)⟩,
    ⟨55, ascii ['b', 'r', 'g', 't', 'z'], [.val, .val], withVal fun a => withVal fun b => done (.brgtz a b)⟩,
    ⟨56, ascii ['b', 'r', 'l', 'e'], [.val, .val, .val], withVal fun a => withVal fun b => withVal fun c => done (.brle a b c)⟩,
    ⟨57, ascii ['b', 'r', 'l', 'e', 'z'], [.val, .val], withVal fun a => withVal fun b => done (.brlez a b)⟩,
    ⟨58, ascii ['b', 'r', 'l', 't'], [.val, .val, .val], withVal fun a => withVal fun b => withVal fun c => done (.brlt a b c)⟩,
    ⟨59, ascii ['b', 'r', 'l', 't', 'z'], [.val, .val], withVal fun a => withVal fun b => done (.brltz a b)⟩,
    ⟨60, ascii ['b', 'r', 'n', 'a'], [.val, .val, .val, .val], withVal fun a => withVal fun b => withVal fun c => withVal fun e => done (.brna a b c e)⟩,
    ⟨61, ascii ['b', 'r', 'n', 'a', 'n'], [.val, .val], withVal fun a => withVal fun b => done (.brnan a b)⟩,
    ⟨62, ascii ['b', 'r', 'n', 'a', 'z'], [.val, .val, .val], withVal fun a => withVal fun b => withVal fun c => done (.brnaz a b c)⟩,
    ⟨63, ascii ['b', 'r', 'n', 'e'], [.val, .val, .val], withVal fun a => withVal fun b => withVal fun c => done (.brne a b c)⟩,
    ⟨64, ascii ['b', 'r', 'n', 'e', 'z'], [.val, .val], withVal fun a => withVal fun b => done (.brnez a b)⟩,
    ⟨65, ascii ['c', 'e', 'i', 'l'], [.reg, .val], withReg fun r => withVal fun a => done (.ceil r a)⟩,
    ⟨66, ascii ['c', 'l', 'r'], [.pin], withPin fun d => done (.clr d)⟩,
    ⟨67, ascii ['c', 'l', 'r', 'd'], [.val], withVal fun id => done (.clrd id)⟩,
    ⟨68, ascii ['c', 'o', 's'], [.reg, .val], withReg fun r => withVal fun a => done (.cos r a)⟩,
    ⟨69, ascii ['d', 'e', 'f', 'i', 'n', 'e'], [.newName, .num], withNewName fun str => withNum fun num => done (.define str num)⟩,
    ⟨70, ascii ['d', 'i', 'v'], [.reg, .val, .val], withReg fun r => withVal fun a => withVal fun b => done (.div r a b)⟩,
    ⟨71, ascii ['e', 'x', 'p'], [.reg, .val], withReg fun r => withVal fun a => done (.exp r a)⟩ ]

/-- Rows 72 to 95 of the opcode table (R312, R350). -/
def opcodeRows3 : List OpRow :=
  [ ⟨72, ascii ['f', 'l', 'o', 'o', 'r'], [.reg, .val], withReg fun r => withVal fun a => done (.floor r a)⟩,
    ⟨73, ascii ['g', 'e', 't'], [.reg, .pin, .val], withReg fun r => withPin fun d => withVal fun addr => done (.get r d addr)⟩,
    ⟨74, ascii ['g', 'e', 't', 'd'], [.reg, .val, .val], withReg fun r => withVal fun id => withVal fun addr => done (.getd r id addr)⟩,
    ⟨75, ascii ['h', 'c', 'f'], [], done (.hcf)⟩,
    ⟨76, ascii ['j'], [.val], withVal fun a => done (.j a)⟩,
    ⟨77, ascii ['j', 'a', 'l'], [.val], withVal fun a => done (.jal a)⟩,
    ⟨78, ascii ['j', 'r'], [.val], withVal fun a => done (.jr a)⟩,
    ⟨79, ascii ['l'], [.reg, .pin, .lt], withReg fun r => withPin fun d => withKey fun key => done (.l r d key)⟩,
    ⟨80, ascii ['l', 'a', 'b', 'e', 'l'], [.pin, .newName], withPin fun d => withNewName fun str => done (.label d str)⟩,
    ⟨81, ascii ['l', 'b'], [.reg, .val, .lt, .bm], withReg fun r => withVal fun hash => withKey fun key => withMode fun mode => done (.lb r hash key mode)⟩,
    ⟨82, ascii ['l', 'b', 'n'], [.reg, .val, .val, .lt, .bm], withReg fun r => withVal fun hash => withVal fun name => withKey fun key => withMode fun mode => done (.lbn r hash name key mode)⟩,
    ⟨83, ascii ['l', 'b', 'n', 's'], [.reg, .val, .val, .val, .slt, .bm], withReg fun r => withVal fun hash => withVal fun name => withVal fun slot => withKey fun key => withMode fun mode => done (.lbns r hash name slot key mode)⟩,
    ⟨84, ascii ['l', 'b', 's'], [.reg, .val, .val, .slt, .bm], withReg fun r => withVal fun hash => withVal fun slot => withKey fun key => withMode fun mode => done (.lbs r hash slot key mode)⟩,
    ⟨85, ascii ['l', 'd'], [.reg, .val, .lt], withReg fun r => withVal fun id => withKey fun key => done (.ld r id key)⟩,
    ⟨86, ascii ['l', 'o', 'g'], [.reg, .val], withReg fun r => withVal fun a => done (.log r a)⟩,
    ⟨87, ascii ['l', 'r'], [.reg, .pin, .rm, .val], withReg fun r => withPin fun d => withKey fun key => withVal fun a => done (.lr r d key a)⟩,
    ⟨88, ascii ['l', 's'], [.reg, .pin, .val, .slt], withReg fun r => withPin fun d => withVal fun slot => withKey fun key => done (.ls r d slot key)⟩,
    ⟨89, ascii ['m', 'a', 'x'], [.reg, .val, .val], withReg fun r => withVal fun a => withVal fun b => done (.max r a b)⟩,
    ⟨90, ascii ['m', 'i', 'n'], [.reg, .val, .val], withReg fun r => withVal fun a => withVal fun b => done (.min r a b)⟩,
    ⟨91, ascii ['m', 'o', 'd'], [.reg, .val, .val], withReg fun r => withVal fun a => withVal fun b => done (.mod r a b)⟩,
    ⟨92, ascii ['m', 'o', 'v', 'e'], [.reg, .val], withReg fun r => withVal fun a => done (.move r a)⟩,
    ⟨93, ascii ['m', 'u', 'l'], [.reg, .val, .val], withReg fun r => withVal fun a => withVal fun b => done (.mul r a b)⟩,
    ⟨94, ascii ['n', 'o', 'r'], [.reg, .val, .val], withReg fun r => withVal fun a => withVal fun b => done (.nor r a b)⟩,
    ⟨95, ascii ['n', 'o', 't'], [.reg, .val], withReg fun r => withVal fun a => done (.not r a)⟩ ]

/-- Rows 96 to 119 of the opcode table (R312, R350). -/
def opcodeRows4 : List OpRow :=
  [ ⟨96, ascii ['o', 'r'], [.reg, .val, .val], withReg fun r => withVal fun a => withVal fun b => done (.or r a b)⟩,
    ⟨97, ascii ['p', 'e', 'e', 'k'], [.reg], withReg fun r => done (.peek r)⟩,
    ⟨98, ascii ['p', 'o', 'k', 'e'], [.val, .val], withVal fun a => withVal fun b => done (.poke a b)⟩,
    ⟨99, ascii ['p', 'o', 'p'], [.reg], withReg fun r => done (.pop r)⟩,
    ⟨100, ascii ['p', 'u', 's', 'h'], [.val], withVal fun a => done (.push a)⟩,
    ⟨101, ascii ['p', 'u', 't'], [.pin, .val, .val], withPin fun d => withVal fun addr => withVal fun a => done (.put d addr a)⟩,
    ⟨102, ascii ['p', 'u', 't', 'd'], [.val, .val, .val], withVal fun id => withVal fun addr => withVal fun a => done (.putd id addr a)⟩,
    ⟨103, ascii ['r', 'a', 'n', 'd'], [.reg], withReg fun r => done (.rand r)⟩,
    ⟨104, ascii ['r', 'o', 'u', 'n', 'd'], [.reg, .val], withReg fun r => withVal fun a => done (.round r a)⟩,
    ⟨105, ascii ['s'], [.pin, .lt, .val], withPin fun d => withKey fun key => withVal fun a => done (.s d key a)⟩,
    ⟨106, ascii ['s', 'a', 'p'], [.reg, .val, .val, .val], withReg fun r => withVal fun a => withVal fun b => withVal fun c => done (.sap r a b c)⟩,
    ⟨107, ascii ['s', 'a', 'p', 'z'], [.reg, .val, .val], withReg fun r => withVal fun a => withVal fun b => done (.sapz r a b)⟩,
    ⟨108, ascii ['s', 'b'], [.val, .lt, .val], withVal fun hash => withKey fun key => withVal fun a => done (.sb hash key a)⟩,
    ⟨109, ascii ['s', 'b', 'n'], [.val, .val, .lt, .val], withVal fun hash => withVal fun name => withKey fun key => withVal fun a => done (.sbn hash name key a)⟩,
    ⟨110, ascii ['s', 'b', 's'], [.val, .val, .slt, .val], withVal fun hash => withVal fun slot => withKey fun key => withVal fun a => done (.sbs hash slot key a)⟩,
    ⟨111, ascii ['s', 'd'], [.val, .lt, .val], withVal fun id => withKey fun key => withVal fun a => done (.sd id key a)⟩,
    ⟨112, ascii ['s', 'd', 'n', 's'], [.reg, .pin], withReg fun r => withPin fun d => done (.sdns r d)⟩,
    ⟨113, ascii ['s', 'd', 's', 'e'], [.reg, .pin], withReg fun r => withPin fun d => done (.sdse r d)⟩,
    ⟨114, ascii ['s', 'e', 'l', 'e', 'c', 't'], [.reg, .val, .val, .val], withReg fun r => withVal fun a => withVal fun b => withVal fun c => done (.select r a b c)⟩,
    ⟨115, ascii ['s', 'e', 'q'], [.reg, .val, .val], withReg fun r => withVal fun a => withVal fun b => done (.seq r a b)⟩,
    ⟨116, ascii ['s', 'e', 'q', 'z'], [.reg, .val], withReg fun r => withVal fun a => done (.seqz r a)⟩,
    ⟨117, ascii ['s', 'g', 'e'], [.reg, .val, .val], withReg fun r => withVal fun a => withVal fun b => done (.sge r a b)⟩,
    ⟨118, ascii ['s', 'g', 'e', 'z'], [.reg, .val], withReg fun r => withVal fun a => done (.sgez r a)⟩,
    ⟨119, ascii ['s', 'g', 't'], [.reg, .val, .val], withReg fun r => withVal fun a => withVal fun b => done (.sgt r a b)⟩ ]

/-- Rows 120 to 143 of the opcode table (R312, R350). -/
def opcodeRows5 : List OpRow :=
  [ ⟨120, ascii ['s', 'g', 't', 'z'], [.reg, .val], withReg fun r => withVal fun a => done (.sgtz r a)⟩,
    ⟨121, ascii ['s', 'i', 'n'], [.reg, .val], withReg fun r => withVal fun a => done (.sin r a)⟩,
    ⟨122, ascii ['s', 'l', 'a'], [.reg, .val, .val], withReg fun r => withVal fun a => withVal fun b => done (.sla r a b)⟩,
    ⟨123, ascii ['s', 'l', 'e'], [.reg, .val, .val], withReg fun r => withVal fun a => withVal fun b => done (.sle r a b)⟩,
    ⟨124, ascii ['s', 'l', 'e', 'e', 'p'], [.val], withVal fun a => done (.sleep a)⟩,
    ⟨125, ascii ['s', 'l', 'e', 'z'], [.reg, .val], withReg fun r => withVal fun a => done (.slez r a)⟩,
    ⟨126, ascii ['s', 'l', 'l'], [.reg, .val, .val], withReg fun r => withVal fun a => withVal fun b => done (.sll r a b)⟩,
    ⟨127, ascii ['s', 'l', 't'], [.reg, .val, .val], withReg fun r => withVal fun a => withVal fun b => done (.slt r a b)⟩,
    ⟨128, ascii ['s', 'l', 't', 'z'], [.reg, .val], withReg fun r => withVal fun a => done (.sltz r a)⟩,
    ⟨129, ascii ['s', 'n', 'a'], [.reg, .val, .val, .val], withReg fun r => withVal fun a => withVal fun b => withVal fun c => done (.sna r a b c)⟩,
    ⟨130, ascii ['s', 'n', 'a', 'n'], [.reg, .val], withReg fun r => withVal fun a => done (.snan r a)⟩,
    ⟨131, ascii ['s', 'n', 'a', 'n', 'z'], [.reg, .val], withReg fun r => withVal fun a => done (.snanz r a)⟩,
    ⟨132, ascii ['s', 'n', 'a', 'z'], [.reg, .val, .val], withReg fun r => withVal fun a => withVal fun b => done (.snaz r a b)⟩,
    ⟨133, ascii ['s', 'n', 'e'], [.reg, .val, .val], withReg fun r => withVal fun a => withVal fun b => done (.sne r a b)⟩,
    ⟨134, ascii ['s', 'n', 'e', 'z'], [.reg, .val], withReg fun r => withVal fun a => done (.snez r a)⟩,
    ⟨135, ascii ['s', 'q', 'r', 't'], [.reg, .val], withReg fun r => withVal fun a => done (.sqrt r a)⟩,
    ⟨136, ascii ['s', 'r', 'a'], [.reg, .val, .val], withReg fun r => withVal fun a => withVal fun b => done (.sra r a b)⟩,
    ⟨137, ascii ['s', 'r', 'l'], [.reg, .val, .val], withReg fun r => withVal fun a => withVal fun b => done (.srl r a b)⟩,
    ⟨138, ascii ['s', 's'], [.pin, .val, .slt, .val], withPin fun d => withVal fun slot => withKey fun key => withVal fun a => done (.ss d slot key a)⟩,
    ⟨139, ascii ['s', 'u', 'b'], [.reg, .val, .val], withReg fun r => withVal fun a => withVal fun b => done (.sub r a b)⟩,
    ⟨140, ascii ['t', 'a', 'n'], [.reg, .val], withReg fun r => withVal fun a => done (.tan r a)⟩,
    ⟨141, ascii ['t', 'r', 'u', 'n', 'c'], [.reg, .val], withReg fun r => withVal fun a => done (.trunc r a)⟩,
    ⟨142, ascii ['x', 'o', 'r'], [.reg, .val, .val], withReg fun r => withVal fun a => withVal fun b => done (.xor r a b)⟩,
    ⟨143, ascii ['y', 'i', 'e', 'l', 'd'], [], done (.yield)⟩ ]

/-- The opcode table: row `n` has tag `n` (R312). -/
def opcodeTable : List OpRow :=
  opcodeRows0 ++ opcodeRows1 ++ opcodeRows2 ++ opcodeRows3 ++ opcodeRows4 ++ opcodeRows5

namespace Instr

/-- The opcode tag (R312). -/
def tag : Instr → Nat
  | .nop => 0
  | .abs _ _ => 1
  | .acos _ _ => 2
  | .add _ _ _ => 3
  | .aliasOp _ _ => 4
  | .and _ _ _ => 5
  | .asin _ _ => 6
  | .atan _ _ => 7
  | .atan2 _ _ _ => 8
  | .bap _ _ _ _ => 9
  | .bapal _ _ _ _ => 10
  | .bapz _ _ _ => 11
  | .bapzal _ _ _ => 12
  | .bdns _ _ => 13
  | .bdnsal _ _ => 14
  | .bdse _ _ => 15
  | .bdseal _ _ => 16
  | .beq _ _ _ => 17
  | .beqal _ _ _ => 18
  | .beqz _ _ => 19
  | .beqzal _ _ => 20
  | .bge _ _ _ => 21
  | .bgeal _ _ _ => 22
  | .bgez _ _ => 23
  | .bgezal _ _ => 24
  | .bgt _ _ _ => 25
  | .bgtal _ _ _ => 26
  | .bgtz _ _ => 27
  | .bgtzal _ _ => 28
  | .ble _ _ _ => 29
  | .bleal _ _ _ => 30
  | .blez _ _ => 31
  | .blezal _ _ => 32
  | .blt _ _ _ => 33
  | .bltal _ _ _ => 34
  | .bltz _ _ => 35
  | .bltzal _ _ => 36
  | .bna _ _ _ _ => 37
  | .bnaal _ _ _ _ => 38
  | .bnan _ _ => 39
  | .bnaz _ _ _ => 40
  | .bnazal _ _ _ => 41
  | .bne _ _ _ => 42
  | .bneal _ _ _ => 43
  | .bnez _ _ => 44
  | .bnezal _ _ => 45
  | .brap _ _ _ _ => 46
  | .brapz _ _ _ => 47
  | .brdns _ _ => 48
  | .brdse _ _ => 49
  | .breq _ _ _ => 50
  | .breqz _ _ => 51
  | .brge _ _ _ => 52
  | .brgez _ _ => 53
  | .brgt _ _ _ => 54
  | .brgtz _ _ => 55
  | .brle _ _ _ => 56
  | .brlez _ _ => 57
  | .brlt _ _ _ => 58
  | .brltz _ _ => 59
  | .brna _ _ _ _ => 60
  | .brnan _ _ => 61
  | .brnaz _ _ _ => 62
  | .brne _ _ _ => 63
  | .brnez _ _ => 64
  | .ceil _ _ => 65
  | .clr _ => 66
  | .clrd _ => 67
  | .cos _ _ => 68
  | .define _ _ => 69
  | .div _ _ _ => 70
  | .exp _ _ => 71
  | .floor _ _ => 72
  | .get _ _ _ => 73
  | .getd _ _ _ => 74
  | .hcf => 75
  | .j _ => 76
  | .jal _ => 77
  | .jr _ => 78
  | .l _ _ _ => 79
  | .label _ _ => 80
  | .lb _ _ _ _ => 81
  | .lbn _ _ _ _ _ => 82
  | .lbns _ _ _ _ _ _ => 83
  | .lbs _ _ _ _ _ => 84
  | .ld _ _ _ => 85
  | .log _ _ => 86
  | .lr _ _ _ _ => 87
  | .ls _ _ _ _ => 88
  | .max _ _ _ => 89
  | .min _ _ _ => 90
  | .mod _ _ _ => 91
  | .move _ _ => 92
  | .mul _ _ _ => 93
  | .nor _ _ _ => 94
  | .not _ _ => 95
  | .or _ _ _ => 96
  | .peek _ => 97
  | .poke _ _ => 98
  | .pop _ => 99
  | .push _ => 100
  | .put _ _ _ => 101
  | .putd _ _ _ => 102
  | .rand _ => 103
  | .round _ _ => 104
  | .s _ _ _ => 105
  | .sap _ _ _ _ => 106
  | .sapz _ _ _ => 107
  | .sb _ _ _ => 108
  | .sbn _ _ _ _ => 109
  | .sbs _ _ _ _ => 110
  | .sd _ _ _ => 111
  | .sdns _ _ => 112
  | .sdse _ _ => 113
  | .select _ _ _ _ => 114
  | .seq _ _ _ => 115
  | .seqz _ _ => 116
  | .sge _ _ _ => 117
  | .sgez _ _ => 118
  | .sgt _ _ _ => 119
  | .sgtz _ _ => 120
  | .sin _ _ => 121
  | .sla _ _ _ => 122
  | .sle _ _ _ => 123
  | .sleep _ => 124
  | .slez _ _ => 125
  | .sll _ _ _ => 126
  | .slt _ _ _ => 127
  | .sltz _ _ => 128
  | .sna _ _ _ _ => 129
  | .snan _ _ => 130
  | .snanz _ _ => 131
  | .snaz _ _ _ => 132
  | .sne _ _ _ => 133
  | .snez _ _ => 134
  | .sqrt _ _ => 135
  | .sra _ _ _ => 136
  | .srl _ _ _ => 137
  | .ss _ _ _ _ => 138
  | .sub _ _ _ => 139
  | .tan _ _ => 140
  | .trunc _ _ => 141
  | .xor _ _ _ => 142
  | .yield => 143

/-- The operand descriptors, in textual order (R310). -/
def operands : Instr → List Operand
  | .nop => []
  | .abs r a => [.ofRegOp r, .ofValOp a]
  | .acos r a => [.ofRegOp r, .ofValOp a]
  | .add r a b => [.ofRegOp r, .ofValOp a, .ofValOp b]
  | .aliasOp str target => [.newName str, .ofTarget target]
  | .and r a b => [.ofRegOp r, .ofValOp a, .ofValOp b]
  | .asin r a => [.ofRegOp r, .ofValOp a]
  | .atan r a => [.ofRegOp r, .ofValOp a]
  | .atan2 r a b => [.ofRegOp r, .ofValOp a, .ofValOp b]
  | .bap a b c e => [.ofValOp a, .ofValOp b, .ofValOp c, .ofValOp e]
  | .bapal a b c e => [.ofValOp a, .ofValOp b, .ofValOp c, .ofValOp e]
  | .bapz a b c => [.ofValOp a, .ofValOp b, .ofValOp c]
  | .bapzal a b c => [.ofValOp a, .ofValOp b, .ofValOp c]
  | .bdns d a => [.ofPinOp d, .ofValOp a]
  | .bdnsal d a => [.ofPinOp d, .ofValOp a]
  | .bdse d a => [.ofPinOp d, .ofValOp a]
  | .bdseal d a => [.ofPinOp d, .ofValOp a]
  | .beq a b c => [.ofValOp a, .ofValOp b, .ofValOp c]
  | .beqal a b c => [.ofValOp a, .ofValOp b, .ofValOp c]
  | .beqz a b => [.ofValOp a, .ofValOp b]
  | .beqzal a b => [.ofValOp a, .ofValOp b]
  | .bge a b c => [.ofValOp a, .ofValOp b, .ofValOp c]
  | .bgeal a b c => [.ofValOp a, .ofValOp b, .ofValOp c]
  | .bgez a b => [.ofValOp a, .ofValOp b]
  | .bgezal a b => [.ofValOp a, .ofValOp b]
  | .bgt a b c => [.ofValOp a, .ofValOp b, .ofValOp c]
  | .bgtal a b c => [.ofValOp a, .ofValOp b, .ofValOp c]
  | .bgtz a b => [.ofValOp a, .ofValOp b]
  | .bgtzal a b => [.ofValOp a, .ofValOp b]
  | .ble a b c => [.ofValOp a, .ofValOp b, .ofValOp c]
  | .bleal a b c => [.ofValOp a, .ofValOp b, .ofValOp c]
  | .blez a b => [.ofValOp a, .ofValOp b]
  | .blezal a b => [.ofValOp a, .ofValOp b]
  | .blt a b c => [.ofValOp a, .ofValOp b, .ofValOp c]
  | .bltal a b c => [.ofValOp a, .ofValOp b, .ofValOp c]
  | .bltz a b => [.ofValOp a, .ofValOp b]
  | .bltzal a b => [.ofValOp a, .ofValOp b]
  | .bna a b c e => [.ofValOp a, .ofValOp b, .ofValOp c, .ofValOp e]
  | .bnaal a b c e => [.ofValOp a, .ofValOp b, .ofValOp c, .ofValOp e]
  | .bnan a b => [.ofValOp a, .ofValOp b]
  | .bnaz a b c => [.ofValOp a, .ofValOp b, .ofValOp c]
  | .bnazal a b c => [.ofValOp a, .ofValOp b, .ofValOp c]
  | .bne a b c => [.ofValOp a, .ofValOp b, .ofValOp c]
  | .bneal a b c => [.ofValOp a, .ofValOp b, .ofValOp c]
  | .bnez a b => [.ofValOp a, .ofValOp b]
  | .bnezal a b => [.ofValOp a, .ofValOp b]
  | .brap a b c e => [.ofValOp a, .ofValOp b, .ofValOp c, .ofValOp e]
  | .brapz a b c => [.ofValOp a, .ofValOp b, .ofValOp c]
  | .brdns d a => [.ofPinOp d, .ofValOp a]
  | .brdse d a => [.ofPinOp d, .ofValOp a]
  | .breq a b c => [.ofValOp a, .ofValOp b, .ofValOp c]
  | .breqz a b => [.ofValOp a, .ofValOp b]
  | .brge a b c => [.ofValOp a, .ofValOp b, .ofValOp c]
  | .brgez a b => [.ofValOp a, .ofValOp b]
  | .brgt a b c => [.ofValOp a, .ofValOp b, .ofValOp c]
  | .brgtz a b => [.ofValOp a, .ofValOp b]
  | .brle a b c => [.ofValOp a, .ofValOp b, .ofValOp c]
  | .brlez a b => [.ofValOp a, .ofValOp b]
  | .brlt a b c => [.ofValOp a, .ofValOp b, .ofValOp c]
  | .brltz a b => [.ofValOp a, .ofValOp b]
  | .brna a b c e => [.ofValOp a, .ofValOp b, .ofValOp c, .ofValOp e]
  | .brnan a b => [.ofValOp a, .ofValOp b]
  | .brnaz a b c => [.ofValOp a, .ofValOp b, .ofValOp c]
  | .brne a b c => [.ofValOp a, .ofValOp b, .ofValOp c]
  | .brnez a b => [.ofValOp a, .ofValOp b]
  | .ceil r a => [.ofRegOp r, .ofValOp a]
  | .clr d => [.ofPinOp d]
  | .clrd id => [.ofValOp id]
  | .cos r a => [.ofRegOp r, .ofValOp a]
  | .define str num => [.newName str, .num num]
  | .div r a b => [.ofRegOp r, .ofValOp a, .ofValOp b]
  | .exp r a => [.ofRegOp r, .ofValOp a]
  | .floor r a => [.ofRegOp r, .ofValOp a]
  | .get r d addr => [.ofRegOp r, .ofPinOp d, .ofValOp addr]
  | .getd r id addr => [.ofRegOp r, .ofValOp id, .ofValOp addr]
  | .hcf => []
  | .j a => [.ofValOp a]
  | .jal a => [.ofValOp a]
  | .jr a => [.ofValOp a]
  | .l r d key => [.ofRegOp r, .ofPinOp d, .ofKeyOp key]
  | .label d str => [.ofPinOp d, .newName str]
  | .lb r hash key mode => [.ofRegOp r, .ofValOp hash, .ofKeyOp key, .ofModeOp mode]
  | .lbn r hash name key mode => [.ofRegOp r, .ofValOp hash, .ofValOp name, .ofKeyOp key, .ofModeOp mode]
  | .lbns r hash name slot key mode => [.ofRegOp r, .ofValOp hash, .ofValOp name, .ofValOp slot, .ofKeyOp key, .ofModeOp mode]
  | .lbs r hash slot key mode => [.ofRegOp r, .ofValOp hash, .ofValOp slot, .ofKeyOp key, .ofModeOp mode]
  | .ld r id key => [.ofRegOp r, .ofValOp id, .ofKeyOp key]
  | .log r a => [.ofRegOp r, .ofValOp a]
  | .lr r d key a => [.ofRegOp r, .ofPinOp d, .ofKeyOp key, .ofValOp a]
  | .ls r d slot key => [.ofRegOp r, .ofPinOp d, .ofValOp slot, .ofKeyOp key]
  | .max r a b => [.ofRegOp r, .ofValOp a, .ofValOp b]
  | .min r a b => [.ofRegOp r, .ofValOp a, .ofValOp b]
  | .mod r a b => [.ofRegOp r, .ofValOp a, .ofValOp b]
  | .move r a => [.ofRegOp r, .ofValOp a]
  | .mul r a b => [.ofRegOp r, .ofValOp a, .ofValOp b]
  | .nor r a b => [.ofRegOp r, .ofValOp a, .ofValOp b]
  | .not r a => [.ofRegOp r, .ofValOp a]
  | .or r a b => [.ofRegOp r, .ofValOp a, .ofValOp b]
  | .peek r => [.ofRegOp r]
  | .poke a b => [.ofValOp a, .ofValOp b]
  | .pop r => [.ofRegOp r]
  | .push a => [.ofValOp a]
  | .put d addr a => [.ofPinOp d, .ofValOp addr, .ofValOp a]
  | .putd id addr a => [.ofValOp id, .ofValOp addr, .ofValOp a]
  | .rand r => [.ofRegOp r]
  | .round r a => [.ofRegOp r, .ofValOp a]
  | .s d key a => [.ofPinOp d, .ofKeyOp key, .ofValOp a]
  | .sap r a b c => [.ofRegOp r, .ofValOp a, .ofValOp b, .ofValOp c]
  | .sapz r a b => [.ofRegOp r, .ofValOp a, .ofValOp b]
  | .sb hash key a => [.ofValOp hash, .ofKeyOp key, .ofValOp a]
  | .sbn hash name key a => [.ofValOp hash, .ofValOp name, .ofKeyOp key, .ofValOp a]
  | .sbs hash slot key a => [.ofValOp hash, .ofValOp slot, .ofKeyOp key, .ofValOp a]
  | .sd id key a => [.ofValOp id, .ofKeyOp key, .ofValOp a]
  | .sdns r d => [.ofRegOp r, .ofPinOp d]
  | .sdse r d => [.ofRegOp r, .ofPinOp d]
  | .select r a b c => [.ofRegOp r, .ofValOp a, .ofValOp b, .ofValOp c]
  | .seq r a b => [.ofRegOp r, .ofValOp a, .ofValOp b]
  | .seqz r a => [.ofRegOp r, .ofValOp a]
  | .sge r a b => [.ofRegOp r, .ofValOp a, .ofValOp b]
  | .sgez r a => [.ofRegOp r, .ofValOp a]
  | .sgt r a b => [.ofRegOp r, .ofValOp a, .ofValOp b]
  | .sgtz r a => [.ofRegOp r, .ofValOp a]
  | .sin r a => [.ofRegOp r, .ofValOp a]
  | .sla r a b => [.ofRegOp r, .ofValOp a, .ofValOp b]
  | .sle r a b => [.ofRegOp r, .ofValOp a, .ofValOp b]
  | .sleep a => [.ofValOp a]
  | .slez r a => [.ofRegOp r, .ofValOp a]
  | .sll r a b => [.ofRegOp r, .ofValOp a, .ofValOp b]
  | .slt r a b => [.ofRegOp r, .ofValOp a, .ofValOp b]
  | .sltz r a => [.ofRegOp r, .ofValOp a]
  | .sna r a b c => [.ofRegOp r, .ofValOp a, .ofValOp b, .ofValOp c]
  | .snan r a => [.ofRegOp r, .ofValOp a]
  | .snanz r a => [.ofRegOp r, .ofValOp a]
  | .snaz r a b => [.ofRegOp r, .ofValOp a, .ofValOp b]
  | .sne r a b => [.ofRegOp r, .ofValOp a, .ofValOp b]
  | .snez r a => [.ofRegOp r, .ofValOp a]
  | .sqrt r a => [.ofRegOp r, .ofValOp a]
  | .sra r a b => [.ofRegOp r, .ofValOp a, .ofValOp b]
  | .srl r a b => [.ofRegOp r, .ofValOp a, .ofValOp b]
  | .ss d slot key a => [.ofPinOp d, .ofValOp slot, .ofKeyOp key, .ofValOp a]
  | .sub r a b => [.ofRegOp r, .ofValOp a, .ofValOp b]
  | .tan r a => [.ofRegOp r, .ofValOp a]
  | .trunc r a => [.ofRegOp r, .ofValOp a]
  | .xor r a b => [.ofRegOp r, .ofValOp a, .ofValOp b]
  | .yield => []

/-- The row of the opcode table that an instruction belongs to. -/
def row? (i : Instr) : Option OpRow := opcodeTable[i.tag]?

/-- The mnemonic (R312); empty for the empty line. -/
def mnemonic (i : Instr) : Ident :=
  match i.row? with
  | some r => r.mnemonic
  | none => []

/-- The slot kinds of the format (R350). -/
def slots (i : Instr) : List Slot :=
  match i.row? with
  | some r => r.slots
  | none => []

/-- The instruction with a given tag and operand descriptors, if there is one (R310, R311). -/
def ofRecord (tag : Nat) (ops : List Operand) : Option Instr :=
  match opcodeTable[tag]? with
  | some r => r.build ops
  | none => none

end Instr

end Sys2Proof
end

