-- ==== Sys2Proof/Machine/Lexer.lean ====
section
/-! DEFINITION. Lines, tokens and the token grammar (30_encoding.md R300 to R302, R315 to R319). -/

namespace Sys2Proof

/-- The spelling of a batch mode (R319). -/
def BatchMode.spelling : BatchMode → Ident
  | .average => bytes "Average"
  | .sum => bytes "Sum"
  | .minimum => bytes "Minimum"
  | .maximum => bytes "Maximum"

/-- The batch mode an identifier spells (R319). -/
def batchModeNamed (s : Ident) : Option BatchMode :=
  if s = bytes "Average" then some .average
  else if s = bytes "Sum" then some .sum
  else if s = bytes "Minimum" then some .minimum
  else if s = bytes "Maximum" then some .maximum
  else none

/-- The name set of a key slot (R319, R325); empty for a slot that takes no key. -/
def KeyNames.ofSlot (k : KeyNames) : Slot → List Ident
  | .lt => k.logicTypes
  | .slt => k.slotLogicTypes
  | .rm => k.reagentModes
  | _ => []

namespace Lexer

/-! ### Bytes -/

def isDigit (b : Byte) : Bool := decide (0x30 ≤ b.toNat) && decide (b.toNat ≤ 0x39)
def isUpper (b : Byte) : Bool := decide (0x41 ≤ b.toNat) && decide (b.toNat ≤ 0x5A)
def isLower (b : Byte) : Bool := decide (0x61 ≤ b.toNat) && decide (b.toNat ≤ 0x7A)

/-- The first byte of an identifier (R318). -/
def isIdentStart (b : Byte) : Bool := isUpper b || isLower b || b == 0x5F#8

/-- A later byte of an identifier (R318). -/
def isIdentByte (b : Byte) : Bool := isIdentStart b || isDigit b

/-- The delimiters of source lines: space and tab (R302). -/
def isBlank (b : Byte) : Bool := b == 0x20#8 || b == 0x09#8

/-- Lower-case an ASCII letter (R304). -/
def toLower (b : Byte) : Byte := if isUpper b then b + 0x20#8 else b

/-! ### Lines and tokens -/

/-- Cut the text at each line feed; a line feed at the very end starts no further line (R300). -/
def cutLines : List Byte → List (List Byte)
  | [] => []
  | b :: rest =>
    if b = 0x0A#8 then [] :: cutLines rest
    else
      match cutLines rest with
      | [] => [[b]]
      | l :: ls => (b :: l) :: ls

/-- Remove one carriage return at the end of a line (R300). -/
def dropReturn (line : List Byte) : List Byte :=
  if line.getLast? = some 0x0D#8 then line.dropLast else line

/-- The lines of a source text (R300). -/
def splitLines (src : List Byte) : List (List Byte) := (cutLines src).map dropReturn

/-- Remove the first `#` and every byte after it (R301). -/
def stripComment (line : List Byte) : List Byte := line.takeWhile (· != 0x23#8)

/-- `split_consecutive` (R302) of a text that begins at the given offset: the maximal runs of bytes that are no
delimiters, each with its offset. A run that begins right after a byte that is no delimiter continues it. -/
def splitConsecutive (isDelim : Byte → Bool) : Nat → List Byte → List (Nat × List Byte)
  | _, [] => []
  | o, b :: rest =>
    let more := splitConsecutive isDelim (o + 1) rest
    if isDelim b then more
    else
      match more with
      | [] => [(o, [b])]
      | (p, t) :: ts => if p = o + 1 then (o, b :: t) :: ts else (o, [b]) :: (p, t) :: ts

/-- The tokens of a source line with their columns (R301, R302). -/
def tokenize (line : List Byte) : List (Nat × List Byte) := splitConsecutive isBlank 0 (stripComment line)

/-! ### Numbers (R317) -/

/-- The value of a run of decimal digits. -/
def decimal (ds : List Byte) : Nat := ds.foldl (fun n d => 10 * n + (d.toNat - 0x30)) 0

/-- A non-empty run of decimal digits and nothing else. -/
def isDecimal (t : List Byte) : Bool := !t.isEmpty && t.all isDigit

/-- The exponent part `[eE][-+]?[0-9]+`, or nothing: its value. -/
def exponentPart : List Byte → Option Int
  | [] => some 0
  | e :: rest =>
    if e = 0x65#8 ∨ e = 0x45#8 then
      match rest with
      | [] => none
      | s :: ds =>
        if s = 0x2D#8 then (if isDecimal ds then some (-(decimal ds : Int)) else none)
        else if s = 0x2B#8 then (if isDecimal ds then some (decimal ds : Int) else none)
        else if isDecimal rest then some (decimal rest : Int) else none
    else none

/-- The fraction part `\.[0-9]+`, or nothing, and what follows it: the fraction's digits and the rest. -/
def fractionPart (t : List Byte) : Option (List Byte × List Byte) :=
  match t with
  | 0x2E#8 :: rest =>
    let ds := rest.takeWhile isDigit
    if ds.isEmpty then none else some (ds, rest.dropWhile isDigit)
  | _ => some ([], t)

/-- The datum nearest to `n * 10^e`. -/
def scaledDecimal (neg : Bool) (n : Nat) (e : Int) : F64 :=
  if 0 ≤ e then F64.ofRatio neg (n * 10 ^ e.toNat) 1 else F64.ofRatio neg n (10 ^ (-e).toNat)

/-- An unsigned decimal literal `[0-9]+(\.[0-9]+)?([eE][-+]?[0-9]+)?`, given the sign that stood before it. -/
def unsignedDecimal (neg : Bool) (t : List Byte) : Option F64 :=
  let whole := t.takeWhile isDigit
  if whole.isEmpty then none
  else
    match fractionPart (t.dropWhile isDigit) with
    | none => none
    | some (frac, rest) =>
      match exponentPart rest with
      | none => none
      | some e => some (scaledDecimal neg (decimal (whole ++ frac)) (e - frac.length))

/-- A decimal literal with its optional minus sign. -/
def decimalLiteral (t : List Byte) : Option F64 :=
  match t with
  | 0x2D#8 :: rest => unsignedDecimal true rest
  | _ => unsignedDecimal false t

/-- The value of a hexadecimal digit. -/
def hexDigit (b : Byte) : Option Nat :=
  if isDigit b then some (b.toNat - 0x30)
  else if decide (0x61 ≤ b.toNat) && decide (b.toNat ≤ 0x66) then some (b.toNat - 0x61 + 10)
  else if decide (0x41 ≤ b.toNat) && decide (b.toNat ≤ 0x46) then some (b.toNat - 0x41 + 10)
  else none

/-- The value of a binary digit. -/
def binDigit (b : Byte) : Option Nat :=
  if b = 0x30#8 then some 0 else if b = 0x31#8 then some 1 else none

/-- The unsigned integer a run of digits spells in a base, continuing from `n`. -/
def digitsFrom (base : Nat) (digit : Byte → Option Nat) : Nat → List Byte → Option Nat
  | n, [] => some n
  | n, b :: rest =>
    match digit b with
    | none => none
    | some d => digitsFrom base digit (base * n + d) rest

/-- A non-empty run of digits in a base, as a datum. -/
def basedLiteral (base : Nat) (digit : Byte → Option Nat) (t : List Byte) : Option F64 :=
  if t.isEmpty then none else (digitsFrom base digit 0 t).map F64.ofNat

/-- One bit of the reflected CRC-32 of polynomial 0x04C11DB7. -/
def crcBit (c : Nat) : Nat := if c % 2 = 1 then (c / 2) ^^^ 0xEDB88320 else c / 2

/-- One byte of the CRC. -/
def crcByte (c : Nat) (b : Byte) : Nat :=
  crcBit (crcBit (crcBit (crcBit (crcBit (crcBit (crcBit (crcBit (c ^^^ b.toNat))))))))

/-- CRC-32: initial value and final exclusive or 0xFFFFFFFF. -/
def crc32 (bs : List Byte) : Nat := (bs.foldl crcByte 0xFFFFFFFF) ^^^ 0xFFFFFFFF

/-- A `HASH("...")` literal: the CRC-32 of the bytes between the quotes as a signed 32-bit integer. -/
def hashLiteral (t : List Byte) : Option F64 :=
  let opening := bytes "HASH(\""
  let closing := bytes "\")"
  if decide (8 ≤ t.length) && t.take 6 == opening && t.drop (t.length - 2) == closing then
    let c : Int := crc32 ((t.drop 6).take (t.length - 8))
    some (F64.ofInt (if c < 2 ^ 31 then c else c - 2 ^ 32))
  else none

/-- Whether a token starts like a number: `-`, a digit, `$`, `%` or `HASH(` (R317). -/
def startsLikeNumber (t : List Byte) : Bool :=
  match t with
  | [] => false
  | b :: _ => b == 0x2D#8 || isDigit b || b == 0x24#8 || b == 0x25#8 || t.take 5 == bytes "HASH("

/-- A number literal of any form (R317). -/
def numberLiteral (t : List Byte) : Option F64 :=
  match t with
  | 0x24#8 :: rest => basedLiteral 16 hexDigit rest
  | 0x25#8 :: rest => basedLiteral 2 binDigit rest
  | _ => if t.take 5 == bytes "HASH(" then hashLiteral t else decimalLiteral t

/-- The named constants (R318). -/
def namedConstant (t : List Byte) : Option F64 :=
  if t = bytes "nan" then some .nan
  else if t = bytes "pi" then some F64.pi
  else if t = bytes "pinf" then some (.inf false)
  else if t = bytes "ninf" then some (.inf true)
  else if t = bytes "deg2rad" then some F64.degToRad
  else if t = bytes "rad2deg" then some F64.radToDeg
  else none

/-! ### Operand tokens (R315, R316, R318) -/

/-- What an operand token is, before its slot is known; `const` is a named constant. -/
inductive Token where
  | reg (r : Reg)
  | pin (p : PinRef)
  | num (v : F64)
  | const (v : F64)
  | ident (s : Ident)
  | malformed
  deriving DecidableEq, Repr

/-- `k` letters `r` and then decimal digits: `k` and the digits' value. -/
def lettersThenDigits (t : List Byte) : Option (Nat × Nat) :=
  let k := (t.takeWhile (· == 0x72#8)).length
  let ds := t.dropWhile (· == 0x72#8)
  if isDecimal ds then some (k, decimal ds) else none

/-- A register token (R315): `sp`, `ra`, or `r` repeated `k >= 1` times and a decimal index. -/
def registerToken (t : List Byte) : Option Token :=
  if t = bytes "sp" then some (.reg .sp)
  else if t = bytes "ra" then some (.reg .ra)
  else
    match lettersThenDigits t with
    | some (k + 1, n) => if h : n < 18 then some (.reg (.gpr ⟨n, h⟩ k)) else some .malformed
    | _ => none

/-- A pin token (R316): `db`, `d` and a decimal index, or `d`, letters `r` and a register index. A second `d` before
the digits (`dd0`) is refused (R316, 90_conflicts.md C7; log 23). -/
def pinToken (t : List Byte) : Option Token :=
  if t = bytes "db" then some (.pin (.direct .db))
  else
    match t with
    | 0x64#8 :: rest =>
      match lettersThenDigits rest with
      | some (0, n) => if h : n < 6 then some (.pin (.direct (.d ⟨n, h⟩))) else some .malformed
      | some (k + 1, n) => if h : n < 18 then some (.pin (.ind ⟨n, h⟩ (k + 1))) else some .malformed
      | none =>
        match rest with
        | 0x64#8 :: digits => if isDecimal digits then some .malformed else none
        | _ => none
    | _ => none

/-- The byte shape `[A-Za-z_][A-Za-z0-9_]*` (R318). -/
def identShape (t : List Byte) : Bool :=
  match t with
  | [] => false
  | b :: rest => isIdentStart b && rest.all isIdentByte

/-- Classify an operand token (R315 to R318, R331). -/
def lex (t : List Byte) : Token :=
  match registerToken t with
  | some k => k
  | none =>
    match pinToken t with
    | some k => k
    | none =>
      match namedConstant t with
      | some v => .const v
      | none =>
        if startsLikeNumber t then
          match numberLiteral t with
          | some v => .num v
          | none => .malformed
        else if identShape t then .ident t else .malformed

/-- Whether a byte string is an identifier: shaped like one and neither a register token, a pin token nor a named
constant (R318). -/
def isIdent (t : List Byte) : Bool := lex t == .ident t

end Lexer

end Sys2Proof
end

