-- ==== Sys2Proof/WellFormed.lean ====
section
/-! DEFINITION. Well-formed instructions: what the parser's own checks of one line guarantee of its operands
(30_encoding.md R313 to R319, R334), with the key-name sets as an argument. -/

namespace Sys2Proof

/-- A pin descriptor with the depth its kind has: an indirect pin has `k >= 1` (R313). -/
def PinRef.wf : PinRef → Bool
  | .direct _ => true
  | .ind _ k => decide (1 ≤ k)

/-- Whether a slot can hold an operand: identifiers are identifiers (R318, R334), a key belongs to the slot's set,
and a name does not, since it would have been read as a key or a mode (R319). -/
def Slot.admits (k : KeyNames) (slot : Slot) (o : Operand) : Bool :=
  match o with
  | .reg _ => true
  | .pin p => p.wf
  | .num _ => true
  | .name s =>
    Lexer.isIdent s && !(k.ofSlot slot).contains s && !(slot == .bm && (batchModeNamed s).isSome)
  | .key s => Lexer.isIdent s && (k.ofSlot slot).contains s
  | .mode _ => true
  | .newName s => Lexer.isIdent s

/-- Every operand is one that its slot can hold. -/
def Instr.wf (k : KeyNames) (i : Instr) : Bool :=
  (i.slots.zip i.operands).all fun (slot, o) => slot.admits k o

end Sys2Proof
end

