-- ==== Sys2Proof/Decode.lean ====
section
/-! DEFINITION. Decoding one source line into an instruction (30_encoding.md R303, R304, R314, R319, R330 to
R335), and the encoder that writes an instruction's line. IC10 has no binary form: the bytes of an instruction
are the bytes of its line (DESIGN CHOICE, log 2). -/

namespace Sys2Proof

namespace Decoder

open Lexer

/-- What the parser knows besides the line: the key-name sets, and the category of every name bound in the program
text (R333); none to take every name as bound. -/
structure Ctx where
  keys : KeyNames
  cats : Option (List (Ident × Category))
  deriving DecidableEq, Repr

/-- The check of a name in a slot that accepts the given categories (R333). -/
def checkName (ctx : Ctx) (accepted : List Category) (s : Ident) : Except ParseKind Operand :=
  match ctx.cats with
  | none => .ok (.name s)
  | some cs =>
    match cs.lookup s with
    | none => .error .unresolvedName
    | some c => if accepted.contains c then .ok (.name s) else .error .arityMismatch

/-- A token in a VAL slot (R314, R332, R333). -/
def valOperand (ctx : Ctx) : Token → Except ParseKind Operand
  | .reg r => .ok (.reg r)
  | .num v => .ok (.num v)
  | .const v => .ok (.num v)
  | .ident s => checkName ctx [.aliasToReg, .constant, .label] s
  | .pin _ => .error .arityMismatch
  | .malformed => .error .malformedOperand

/-- A token in a key slot: a name of the slot's set is a key, anything else is read as for a VAL slot (R319). -/
def keyOperand (ctx : Ctx) (names : List Ident) : Token → Except ParseKind Operand
  | .ident s => if names.contains s then .ok (.key s) else valOperand ctx (.ident s)
  | t => valOperand ctx t

/-- A token in a BM slot (R319). -/
def modeOperand (ctx : Ctx) : Token → Except ParseKind Operand
  | .ident s =>
    match batchModeNamed s with
    | some m => .ok (.mode m)
    | none => valOperand ctx (.ident s)
  | t => valOperand ctx t

/-- A token in a slot of each kind (R314, R319, R331 to R335). -/
def slotOperand (ctx : Ctx) (slot : Slot) (t : Token) : Except ParseKind Operand :=
  match slot with
  | .val => valOperand ctx t
  | .lt | .slt | .rm => keyOperand ctx (ctx.keys.ofSlot slot) t
  | .bm => modeOperand ctx t
  | .reg =>
    match t with
    | .reg r => .ok (.reg r)
    | .ident s => checkName ctx [.aliasToReg] s
    | .malformed => .error .malformedOperand
    | _ => .error .arityMismatch
  | .pin =>
    match t with
    | .pin p => .ok (.pin p)
    | .ident s => checkName ctx [.aliasToPin] s
    | .malformed => .error .malformedOperand
    | _ => .error .arityMismatch
  | .newName =>
    match t with
    | .ident s => .ok (.newName s)
    | .num _ => .error .arityMismatch
    | _ => .error .malformedOperand
  | .target =>
    match t with
    | .reg r => .ok (.reg r)
    | .pin p => .ok (.pin p)
    | .malformed => .error .malformedOperand
    | _ => .error .arityMismatch
  | .num =>
    match t with
    | .num v => .ok (.num v)
    | .const v => .ok (.num v)
    | .malformed => .error .malformedOperand
    | _ => .error .arityMismatch

/-- The operands of a line, left to right; the first refused token decides the error and its column (R336). -/
def slotOperands (ctx : Ctx) : List Slot → List (Nat × List Byte) → Except (ParseKind × Nat) (List Operand)
  | slot :: slots, (col, t) :: rest =>
    match slotOperand ctx slot (lex t) with
    | .error e => .error (e, col)
    | .ok o =>
      match slotOperands ctx slots rest with
      | .error e => .error e
      | .ok os => .ok (o :: os)
  | _, _ => .ok []

/-- The name of a label token: the byte shape of an identifier and then `:` (R303; log 22). -/
def labelName (t : List Byte) : Option Ident :=
  if t.getLast? = some 0x3A#8 ∧ identShape t.dropLast then some t.dropLast else none

/-- The row of a mnemonic token, whatever its case (R304). -/
def rowOf (t : List Byte) : Option OpRow :=
  let m := t.map toLower
  if m.isEmpty then none else opcodeTable.find? (·.mnemonic == m)

/-- Classify and decode the tokens of a line (R303). -/
def decodeTokens (ctx : Ctx) : List (Nat × List Byte) → Except (ParseKind × Nat) Line
  | [] => .ok .empty
  | (col, t) :: rest =>
    match labelName t with
    | some name =>
      if isIdent name then
        match rest with
        | [] => .ok (.label name col)
        | (extra, _) :: _ => .error (.malformedOperand, extra)
      else .error (.malformedOperand, col)
    | none =>
      match rowOf t with
      | none => .error (.unknownInstruction, col)
      | some row =>
        if rest.length = row.slots.length then
          match slotOperands ctx row.slots rest with
          | .error e => .error e
          | .ok ops =>
            match row.build ops with
            | some i => .ok (.op i (rest.map (·.1)))
            | none => .error (.malformedOperand, col)
        else .error (.arityMismatch, col)

/-- Decode a source line. -/
def decodeLine (ctx : Ctx) (line : List Byte) : Except (ParseKind × Nat) Line :=
  decodeTokens ctx (tokenize line)

end Decoder

/-- The instruction a line holds: the empty line and a label line are the no-operation (R303, R1000). -/
def Line.instr : Line → Instr
  | .empty => .nop
  | .label _ _ => .nop
  | .op i _ => i

/-- Decode one line by itself: every name is taken as bound somewhere in the program, which the load checks
(R333). Total on any bytes; a refusal names the parse error and its column. -/
def decode (keys : KeyNames) (line : List Byte) : Except (ParseKind × Nat) Instr :=
  (Decoder.decodeLine ⟨keys, none⟩ line).map Line.instr

/-- The bytes of a table word: bit 0 is the least significant bit of the first byte; the zero bytes above the line
are padding, no part of it (log 2). -/
def wordBytes (nbits w : Nat) : List Byte :=
  (((List.range (nbits / 8)).map fun i => BitVec.ofNat 8 (w / 2 ^ (8 * i))).reverse.dropWhile (· == 0#8)).reverse

/-- The instruction the decoder reads from the line whose bytes are `w`'s, under the key names of power-on. -/
def decodeTableWord (nbits w : Nat) : Option Instr :=
  match decode Config.params.keyNames (wordBytes nbits w) with
  | .ok i => some i
  | .error _ => none

/-! ### The encoder -/

namespace Encoder

/-- The decimal digits of a number, in front of `acc`; `fuel` bounds their count. -/
def digitsInto : Nat → Nat → List Byte → List Byte
  | 0, _, acc => acc
  | fuel + 1, n, acc =>
    let d := BitVec.ofNat 8 (0x30 + n % 10)
    if n < 10 then d :: acc else digitsInto fuel (n / 10) (d :: acc)

/-- A natural number in decimal. -/
def natText (n : Nat) : List Byte := digitsInto (n.log2 + 1) n []

/-- A register token (R315). -/
def regText : Reg → List Byte
  | .gpr n k => List.replicate (k + 1) 0x72#8 ++ natText n.val
  | .sp => bytes "sp"
  | .ra => bytes "ra"

/-- A pin token (R316). -/
def pinText : PinRef → List Byte
  | .direct (.d p) => 0x64#8 :: natText p.val
  | .direct .db => bytes "db"
  | .ind n k => 0x64#8 :: (List.replicate k 0x72#8 ++ natText n.val)

/-- A literal that R317 reads back as exactly this datum: an integer in full, any other finite datum
`sig * 2^-j` as `sig * 5^j` with the exponent `-j`. -/
def numText : F64 → List Byte
  | .nan => bytes "nan"
  | .inf s => if s then bytes "ninf" else bytes "pinf"
  | .fin s e f =>
    let magnitude :=
      if F64.units e f % F64.unitsPerOne = 0 then natText (F64.units e f / F64.unitsPerOne)
      else
        let j := 1074 - F64.scale e
        natText (F64.sig e f * 5 ^ j) ++ bytes "e-" ++ natText j
    if s then 0x2D#8 :: magnitude else magnitude

/-- The token of an operand descriptor. -/
def operandText : Operand → List Byte
  | .reg r => regText r
  | .pin p => pinText p
  | .num v => numText v
  | .name s => s
  | .key s => s
  | .mode m => m.spelling
  | .newName s => s

end Encoder

/-- The source line of an instruction (R370): its mnemonic and its operands, separated by single spaces. -/
def encode (i : Instr) : List Byte :=
  i.mnemonic ++ (i.operands.map fun o => 0x20#8 :: Encoder.operandText o).flatten

/-- An instruction's line as a table word: its length in bits and its bytes as one number. -/
def encodeWord (i : Instr) : Nat × Nat :=
  let line := encode i
  (8 * line.length, line.foldr (fun b n => 256 * n + b.toNat) 0)

end Sys2Proof
end

