-- ==== Sys2Proof/Machine/Load.lean ====
section
/-! DEFINITION. The load port (30_encoding.md R300, R305, R333, R336, R340) and the persistable snapshot
(10_state.md R146; 70_reset_and_hazards.md R1214). -/

namespace Sys2Proof.Machine

open Lexer Decoder

/-! ### Which names a line binds (R305, R333) -/

/-- What a line binds: the name, the column it stands at, and its category; the category is none for an `alias`
whose target token is neither a register nor a pin. -/
structure LineBinding where
  name : Ident
  col : Nat
  cat : Option Category
  deriving DecidableEq, Repr

/-- The category an alias target gives its name (R333); none for a target that is no register and no pin, which R335
refuses and to which R333 gives no category (DESIGN CHOICE, log 24). -/
def targetCategory (t : Token) : Option Category :=
  match t with
  | .reg _ => some .aliasToReg
  | .pin _ => some .aliasToPin
  | _ => none

/-- The name a line binds, if it is a label line, an `alias` line or a `define` line with an identifier in the name's
place (R305, R333; log 24). -/
def bindingOf (tokens : List (Nat × List Byte)) : Option LineBinding :=
  match tokens with
  | [] => none
  | (col, t) :: rest =>
    match labelName t with
    | some name => if isIdent name then some ⟨name, col, some .label⟩ else none
    | none =>
      match rest with
      | [(ncol, name), (_, target)] =>
        if isIdent name then
          if t.map toLower == bytes "alias" then some ⟨name, ncol, targetCategory (lex target)⟩
          else if t.map toLower == bytes "define" then some ⟨name, ncol, some .constant⟩
          else none
        else none
      | _ => none

/-- The categories of the names the lines bind, in line order; a name's category is that of its first entry
(R333). An `alias` line whose target gives no category counts as binding nothing, so that an earlier use of a name that
only such a line names is UnresolvedName (DESIGN CHOICE, log 24). -/
def categories : List (List (Nat × List Byte)) → List (Ident × Category)
  | [] => []
  | l :: ls =>
    match bindingOf l with
    | some ⟨name, _, some c⟩ => (name, c) :: categories ls
    | _ => categories ls

/-- The error of a binding that meets an earlier one of the same name (R305, R333): a second label line, a second
`define`, or a second category. -/
def bindingError (earlier : List (Ident × Category)) (b : LineBinding) : Option (ParseKind × Nat) :=
  match earlier.lookup b.name with
  | none => none
  | some first =>
    match b.cat with
    | some .label => if first = .label then some (.duplicateLabel, b.col) else some (.malformedOperand, b.col)
    | some .constant => some (.malformedOperand, b.col)
    | some c => if first = c then none else some (.malformedOperand, b.col)
    | none => if first = .constant ∨ first = .label then some (.malformedOperand, b.col) else none

/-- Of two possible errors of a line, the one in the earlier column (R336). -/
def firstError (a b : Option (ParseKind × Nat)) : Option (ParseKind × Nat) :=
  match a, b with
  | some x, some y => if y.2 < x.2 then some y else some x
  | some x, none => some x
  | none, y => y

/-- Decode one line of a program, given the categories of all its names and the bindings of its earlier lines. -/
def loadLine (ctx : Ctx) (earlier : List (Ident × Category)) (tokens : List (Nat × List Byte)) :
    Except (ParseKind × Nat) Line :=
  let clash := (bindingOf tokens).bind (bindingError earlier)
  match decodeTokens ctx tokens with
  | .ok line =>
    match clash with
    | some e => .error e
    | none => .ok line
  | .error e =>
    match firstError (some e) clash with
    | some f => .error f
    | none => .error e

/-- The record of a decoded line (R310). -/
def recordOf (i : Nat) : Line → Record
  | .empty => ⟨.nop, i, []⟩
  | .label _ _ => ⟨.nop, i, []⟩
  | .op ins cols => ⟨ins, i, cols⟩

/-- The report of a parse error (R336, R1102). -/
def parseErrorAt (kind : ParseKind) (i col : Nat) : ParseError := ⟨kind, parseCode kind, i, col⟩

/-- Decode the lines from line `i` on, in order; the first refused line decides the error (R336). -/
def loadLines (ctx : Ctx) : Nat → List (Ident × Category) → List (List (Nat × List Byte)) →
    Except ParseError (List Record × LabelTable)
  | _, _, [] => .ok ([], [])
  | i, earlier, tokens :: rest =>
    match loadLine ctx earlier tokens with
    | .error (kind, col) => .error (parseErrorAt kind i col)
    | .ok line =>
      match loadLines ctx (i + 1) (earlier ++ categories [tokens]) rest with
      | .error e => .error e
      | .ok (records, labels) =>
        match line with
        | .label name _ => .ok (recordOf i line :: records, (name, i) :: labels)
        | _ => .ok (recordOf i line :: records, labels)

/-- Decode a program text (R300 to R336). A line beyond `MAX_LINES` is refused at that line (R300; log 25). -/
def parseProgram (p : Params) (source : List Byte) : Except ParseError (List Record × LabelTable) :=
  let lines := (splitLines source).map tokenize
  let ctx : Ctx := ⟨p.keyNames, some (categories lines)⟩
  match p.maxLines with
  | none => loadLines ctx 0 [] lines
  | some limit =>
    match loadLines ctx 0 [] (lines.take limit) with
    | .error e => .error e
    | .ok prog => if limit < lines.length then .error (parseErrorAt .malformedOperand limit 0) else .ok prog

/-! ### Load and restore -/

/-- `load(source)` (R340): all or nothing. A refused load leaves no program and status NoProgram; the core is then
neither crashed nor asleep, and everything else stays (log 20). -/
def State.load (s : State) (source : List Byte) : State :=
  match parseProgram s.params source with
  | .error e =>
    { s with
      program := none
      labels := []
      status := .noProgram
      crashed := false
      resume := none
      loadError := some e }
  | .ok (records, labels) => { s with program := some records, labels := labels, loadError := none }.restart

/-- The persistable snapshot of a core (R146). -/
def State.snapshot (s : State) : Snapshot := ⟨s.x, s.sp, s.ra, s.pc, s.stack, s.aliases, s.defines⟩

/-- Whether a snapshot can be one of this program (R1214): each of its aliases and defines is one that a line of the
program binds (log 21). -/
def Snapshot.fits (snap : Snapshot) (program : List Record) : Bool :=
  snap.aliases.all (fun (n, t) => program.any fun r => r.instr == .aliasOp n t) &&
  snap.defines.all (fun (n, v) => program.any fun r => r.instr == .define n v)

/-- Restore a snapshot onto the core, if it has the snapshot's program installed (R1214; log 21). -/
def State.restore (s : State) (snap : Snapshot) : State :=
  match s.program with
  | none => s
  | some program =>
    if snap.fits program then
      { s with
        x := snap.x
        sp := snap.sp
        ra := snap.ra
        pc := snap.pc
        stack := Memory.writeCells [] snap.stack
        aliases := bindAll [] snap.aliases
        defines := bindAll [] snap.defines
        status := .ready
        crashed := false
        error := none
        ic := 0
        resume := none }
    else s

end Sys2Proof.Machine
end

