-- ==== Sys2Proof/Machine/Tick.lean ====
section
/-! DEFINITION. One step of the machine (10_state.md R150 to R153) and the tick loop around it
(70_reset_and_hazards.md R1200). A tick is a run of model steps: the field `inTick` says that one is under way, and
between ticks a step takes the host's next command (log 17). -/

namespace Sys2Proof.Machine

/-- The start of a step (R150 (2)): the latch is cleared and the step is counted. -/
def State.begin (s : State) : State := { s with npc := none, ic := s.ic + 1 }

/-- The tick ends. -/
def State.leaveTick (s : State) : State := { s with inTick := false }

/-- The sequencer (R150 (4), (5)): after an error the program counter stays; otherwise it takes the latch, or the next
line. The tick goes on only with status Ready (R1200 (5)). -/
def State.sequence (s : State) : State :=
  if s.crashed then s.leaveTick
  else
    let t := { s with pc := s.npc.getD (s.pc + 1) }
    if t.status = .ready then t else t.leaveTick

/-- A fetch outside the program (R151): it counts as a step, and it is fatal or ends the tick quietly. -/
def State.fetchOutside (s : State) : State :=
  match s.params.endOfProgram with
  | .fault => (s.begin.fatal .invalidProgramCounter).leaveTick
  | .ends => { s.begin with status := .ready }.leaveTick

/-- `step()` (R150): fetch, execute, sequence. -/
def State.instruction (s : State) : Host.Outcome State Fault Refusal :=
  match s.fetch with
  | none => .next s.fetchOutside
  | some r =>
    match exec r.instr s.begin with
    | .next t => .next t.sequence
    | .fault f => .fault f
    | .refused r => .refused r

/-- The soft stop InstructionLimitExceeded (R1200 (5)). -/
def State.softStop (s : State) : State := { s with status := .yielded }.leaveTick

/-- A tick begins with status Ready and a fresh count (R1200 (2) to (4)). -/
def State.startTick (s : State) (now : F64) : State :=
  { s with status := .ready, resume := none, ic := 0, now := now, inTick := true }

/-- `run_tick(now)` up to its loop (R1200 (1) to (4)). A core that sleeps wakes only when `now >= t` (R1002, R1121;
log 18), so that one asleep until `+Inf` wakes at a `run_tick(+Inf)`, as R1200 (2) says and the corner case of R1002 on
`sleep pinf` does not (DEDUCED, log 37). -/
def State.runTick (s : State) (now : F64) : State :=
  match s.status with
  | .noProgram => s
  | .crashed => s
  | .sleeping t => if F64.ge now t then s.startTick now else s
  | .yielded => s.startTick now
  | .ready => s.startTick now

/-- The host binds a pin, or unbinds it (R131). -/
def Pins.bind (p : Pins) (pin : Pin) (h : Option Handle) : Pins :=
  match pin with
  | .d i => { p with d := p.d.set i.val h i.isLt }
  | .db => { p with db := h }

/-- Another circuit writes a cell of this circuit's housing memory (R201, R731): a write of the stack under
`DB_MEMORY_ALIASES_STACK`, and nothing of this core otherwise or at an address outside the stack (log 8). -/
def State.housingWrite (s : State) (addr v : F64) : State :=
  if s.params.dbMemoryIsStack then
    match stackAddr addr with
    | .ok a => { s with stack := s.stack.write a v }
    | .error _ => s
  else s

/-- Another circuit clears this circuit's housing memory (R201, R731; log 8). -/
def State.housingClear (s : State) : State :=
  if s.params.dbMemoryIsStack then { s with stack := [] } else s

/-- A command of the host (R8). -/
def State.command (s : State) (c : Command) : State :=
  match c with
  | .runTick now => s.runTick now
  | .reset => s.restart
  | .load source => s.load source
  | .bind pin h => { s with port := { s.port with pins := s.port.pins.bind pin h } }
  | .restore snap => s.restore snap
  | .housingWrite addr v => s.housingWrite addr v
  | .housingClear => s.housingClear

/-- One step of the whole machine: within a tick, the soft stop or one instruction; between ticks, the host's next
command, or nothing (log 17). -/
def State.advance (s : State) : Host.Outcome State Fault Refusal :=
  if s.inTick then
    if s.ic = s.params.tickBudget then .next s.softStop else s.instruction
  else
    match s.commands with
    | [] => .next s
    | c :: rest => .next ({ s with commands := rest }.command c)

/-- Put an instruction into the program store at the program counter, with empty lines before it where the store has
none, and start a tick there (log 26). -/
def State.place (s : State) (i : Instr) : State :=
  let old := s.program.getD []
  let lines := old ++ (List.range (s.pc + 1 - old.length)).map fun k => ⟨.nop, old.length + k, []⟩
  { s with
    program := some (lines.set s.pc ⟨i, s.pc, []⟩)
    status := .ready
    crashed := false
    resume := none
    ic := 0
    inTick := true }

end Sys2Proof.Machine
end

