-- ==== Sys2Proof/Safety.lean ====
section
/-! DEFINITION. What the claims speak of: the frame of an instruction, the invariant of the machine, and the names a
program may use. -/

namespace Sys2Proof.Machine

/-! ### Frames -/

/-- `t` is `s` but for the register cells: every other field is equal. -/
def SameButRegisters (s t : State) : Prop := { t with x := s.x, sp := s.sp, ra := s.ra } = s

/-- Every register cell that is not stored where one of `cs` is stored reads as before. -/
def RegistersKept (s t : State) (cs : List Cell) : Prop :=
  ∀ c : Cell, (∀ d ∈ cs, s.home c ≠ s.home d) → t.readCell c = s.readCell c

/-- Every stack cell reads as before. -/
def StackKept (s t : State) : Prop := ∀ a : Nat, t.stack.read a = s.stack.read a

/-- Every stack cell but `a` reads as before. -/
def StackKeptBut (s t : State) (a : Nat) : Prop := ∀ b : Nat, b ≠ a → t.stack.read b = s.stack.read b

/-- The outcome is a next state that differs from `s` in one register cell, which holds `v`. -/
def WritesOnly (o : Host.Outcome State Fault Refusal) (s : State) (c : Cell) (v : F64) : Prop :=
  ∃ t, o = .next t ∧ t.readCell c = v ∧ RegistersKept s t [c] ∧ StackKept s t ∧ SameButRegisters s t

/-- The outcome is a next state that differs from `s` in one register cell, which holds `v`, and in the device port,
which is `p`. -/
def WritesWithPort (o : Host.Outcome State Fault Refusal) (s : State) (c : Cell) (v : F64) (p : Port) : Prop :=
  ∃ t, o = .next t ∧ t.readCell c = v ∧ RegistersKept s t [c] ∧ StackKept s t ∧ t.port = p ∧
    SameButRegisters { s with port := p } t

/-- The port `q` comes after `p`: the pin bindings are kept (10_state.md R131), and every call made stays made. -/
structure Port.Grows (p q : Port) : Prop where
  pins : q.pins = p.pins
  calls : ∃ more, q.calls = more ++ p.calls

/-- `t` is `s` but for the register cells, the stack, the latch, the alias and define tables, the status with its
resume time, and the device port, which grows: what an instruction may never write is as before. -/
structure Undisturbed (s t : State) : Prop where
  params : t.params = s.params
  pc : t.pc = s.pc
  labels : t.labels = s.labels
  program : t.program = s.program
  ic : t.ic = s.ic
  now : t.now = s.now
  loadError : t.loadError = s.loadError
  inTick : t.inTick = s.inTick
  commands : t.commands = s.commands
  port : Port.Grows s.port t.port

/-- The outcome is a taken call (45_control.md R902): the latch holds the target, `ra` the line after the call, and the
device port is `p`, and nothing else of `s` is written. -/
def Links (o : Host.Outcome State Fault Refusal) (s : State) (target : Nat) (p : Port) : Prop :=
  ∃ t, o = .next t ∧ t.npc = some target ∧ t.readCell .ra = F64.ofNat (s.pc + 1) ∧ RegistersKept s t [.ra] ∧
    StackKept s t ∧ SameButRegisters { s with npc := some target, port := p } t

/-! ### Fatal errors (60_exceptions.md R1110) -/

/-- The instruction raised `e` when the device port stood at `p`: the status, the crashed flag, the error record with
the faulting line and the resume time are as R1110 says, and nothing else of `s` is written. -/
def Raises (o : Host.Outcome State Fault Refusal) (s : State) (e : RunError) (p : Port) : Prop :=
  o = .next { s with
    port := p
    status := .crashed
    crashed := true
    error := some ⟨e, e.code, s.pc⟩
    resume := none }

/-! ### Operands that do not resolve (30_encoding.md R328; 60_exceptions.md R1112) -/

/-- Why a resolution fails, if it does. -/
def failureOf {α : Type} : Except Exn α → Option Exn
  | .error e => some e
  | .ok _ => none

/-- Why an operand in a slot does not resolve, if so; a slot that is not resolved at run time never fails. -/
def State.operandFailure (s : State) (slot : Slot) (o : Operand) : Option Exn :=
  match slot with
  | .reg => o.toRegOp.bind fun r => failureOf (s.dest r)
  | .val => o.toValOp.bind fun a => failureOf (s.value a)
  | .pin => o.toPinOp.bind fun d => failureOf (s.pin d)
  | .lt | .slt | .rm => o.toKeyOp.bind fun k => failureOf (s.key k)
  | .bm => o.toModeOp.bind fun m => failureOf (s.mode m)
  | .newName | .target | .num => none

/-- The device port after an operand has been resolved: a pin is asked for (R323), and nothing else touches it. -/
def State.portAfter (s : State) (slot : Slot) (o : Operand) (p : Port) : Port :=
  match slot with
  | .pin =>
    match o.toPinOp.map s.pin with
    | some (.ok d) => (p.askPin d).2
    | _ => p
  | _ => p

/-- The first operand, from the left, that does not resolve: why, and the device port at that point. -/
def State.firstFailure (s : State) : List (Slot × Operand) → Port → Option (Exn × Port)
  | [], _ => none
  | (slot, o) :: rest, p =>
    match s.operandFailure slot o with
    | some e => some (e, p)
    | none => s.firstFailure rest (s.portAfter slot o p)

/-! ### Series of device calls (43_device.md R708) -/

/-- Read from every handle in order: the values and the port after the last call, or the first failure and the port
after it. -/
def Port.reads (call : Handle → DevCall) : List Handle → Port → Except (DevFail × Port) (List F64 × Port)
  | [], p => .ok ([], p)
  | h :: hs, p =>
    match p.askRead (call h) with
    | (.fails f, q) => .error (f, q)
    | (.value v, q) =>
      match Port.reads call hs q with
      | .ok (vs, r) => .ok (v :: vs, r)
      | .error e => .error e

/-- Write to every handle in order: the port after the last call, or the first failure and the port after it. -/
def Port.writes (call : Handle → DevCall) : List Handle → Port → Except (DevFail × Port) Port
  | [], p => .ok p
  | h :: hs, p =>
    match p.askWrite (call h) with
    | (.fails f, q) => .error (f, q)
    | (.done, q) => Port.writes call hs q

/-! ### The invariant of the machine -/

/-- The crashed flag, the resume time, the error record and the installed program agree with the status (R140 to R144),
and a tick under way runs with status Ready. -/
def State.statusAgrees (s : State) : Prop :=
  (s.crashed = true ↔ s.status = .crashed) ∧
  (∀ t, s.resume = some t ↔ s.status = .sleeping t) ∧
  (s.status = .crashed → s.error.isSome) ∧
  (s.status = .noProgram ↔ s.program = none) ∧
  (s.inTick = true → s.status = .ready)

/-- A recorded error has the code of its kind (R142, R1101). -/
def State.errorCoded (s : State) : Prop := ∀ r, s.error = some r → r.code = r.kind.code

/-- The names of a table are distinct: it is a map. -/
def isMap {α : Type} (table : List (Ident × α)) : Prop := (table.map (·.1)).Nodup

/-- The invariant: the status agrees with the rest, the stack memory is canonical, the tables are maps, and a tick has
not run more steps than its budget (R1201). -/
structure State.Inv (s : State) : Prop where
  status : s.statusAgrees
  coded : s.errorCoded
  stack : s.stack.wf = true
  aliases : isMap s.aliases
  defines : isMap s.defines
  budget : s.ic ≤ s.params.tickBudget

/-! ### The names of a program (30_encoding.md R333) -/

/-- What the lines of a program, and its label table, bind a name to. -/
def bindsAlias (program : List Record) (n : Ident) (t : Target) : Prop :=
  ∃ r ∈ program, r.instr = .aliasOp n t

def bindsConstant (program : List Record) (n : Ident) (v : F64) : Prop :=
  ∃ r ∈ program, r.instr = .define n v

/-- A target is a register. -/
def Target.isReg : Target → Bool
  | .reg _ => true
  | .pin _ => false

/-- The category of a name suits a slot (R333): a REG slot takes a name bound to registers only, a PIN slot one bound
to pins only, and any other slot one bound to no pin. -/
def nameFits (program : List Record) (labels : LabelTable) (slot : Slot) (n : Ident) : Prop :=
  match slot with
  | .reg =>
    (∀ t, bindsAlias program n t → Target.isReg t = true) ∧ (∀ v, ¬ bindsConstant program n v) ∧
      lookupIn labels n = none
  | .pin =>
    (∀ t, bindsAlias program n t → Target.isReg t = false) ∧ (∀ v, ¬ bindsConstant program n v) ∧
      lookupIn labels n = none
  | _ => ∀ t, bindsAlias program n t → Target.isReg t = true

/-- Every name operand of an instruction suits its slot. -/
def namesFit (program : List Record) (labels : LabelTable) (i : Instr) : Prop :=
  ∀ slot n, (slot, Operand.name n) ∈ i.slots.zip i.operands → nameFits program labels slot n

/-- The names of the installed program suit their slots, and the alias and define tables hold only what lines of the
program bind (R132, R133, R333). -/
def State.namesOk (s : State) : Prop :=
  ∀ program, s.program = some program →
    (∀ r ∈ program, namesFit program s.labels r.instr) ∧
    (∀ n t, (n, t) ∈ s.aliases → bindsAlias program n t) ∧
    (∀ n v, (n, v) ∈ s.defines → bindsConstant program n v)

/-! ### Runs -/

/-- The state after a list of instructions without sequencing, or the stop on the way. -/
def execAll : List Instr → State → Host.Outcome State Fault Refusal
  | [], s => .next s
  | i :: is, s =>
    match exec i s with
    | .next t => execAll is t
    | .fault f => .fault f
    | .refused r => .refused r

/-- The state after `k` steps, or the stop on the way. -/
abbrev runSteps (k : Nat) (s : State) : Host.Outcome State Fault Refusal := Sys2Proof.core.run k s

end Sys2Proof.Machine
end

