-- ==== Sys2Proof/Certificates/Slice0/Obligations.lean ====
section
/-! DEFINITION. The statements about the model, one `def Obligations.<Name> : Prop` each. -/

open Sys2Proof Sys2Proof.Machine

/-! ### Encoding and load -/

/-- Lines written out from 30_encoding.md R304, R312 and R315 to R319 decode to the instructions they stand for. -/
def Obligations.WrittenLinesDecode : Prop :=
  let keys : KeyNames := ⟨[bytes "Setting"], [], []⟩
  decode keys (bytes "ADD r0 rr1 -2") =
      .ok (.add (.reg (.gpr 0 0)) (.reg (.gpr 1 1)) (.num (.fin true 1024 0))) ∧
  decode keys (bytes "  l r17 dr2 Setting # comment") =
      .ok (.l (.reg (.gpr 17 0)) (.pin (.ind 2 1)) (.key (bytes "Setting"))) ∧
  decode keys (bytes "lb ra -0 7 Maximum") =
      .ok (.lb (.reg .ra) (.num (F64.zeroOf true)) (.val (.num (.fin false 1025 0xC000000000000))) (.mode .maximum)) ∧
  decode keys (bytes "and r1 $fF sp") =
      .ok (.and (.reg (.gpr 1 0)) (.num (.fin false 1030 0xFE00000000000)) (.reg .sp)) ∧
  decode keys (bytes "seq r1 %101 0.5") =
      .ok (.seq (.reg (.gpr 1 0)) (.num (.fin false 1025 0x4000000000000)) (.num (.fin false 1022 0))) ∧
  decode keys (bytes "push pinf") = .ok (.push (.num (.inf false))) ∧
  decode keys (bytes "push pi") = .ok (.push (.num (.fin false 1024 0x921FB54442D18))) ∧
  decode keys (bytes "push deg2rad") = .ok (.push (.num (.fin false 1017 0x1DF46A2529D39))) ∧
  decode keys (bytes "push rad2deg") = .ok (.push (.num (.fin false 1028 0xCA5DC1A63C1F8))) ∧
  decode keys (bytes "brdse d5 loop") = .ok (.brdse (.pin (.direct (.d 5))) (.name (bytes "loop"))) ∧
  decode keys (bytes "alias foo db") = .ok (.aliasOp (bytes "foo") (.pin (.direct .db))) ∧
  decode keys (bytes "yield") = .ok .yield ∧
  decode keys (bytes "loop:") = .ok .nop ∧
  decode keys (bytes "") = .ok .nop

/-- Every well-formed instruction is what the decoder reads from the line the encoder writes for it. -/
def Obligations.DecodeAfterEncode : Prop :=
  ∀ (keys : KeyNames) (i : Instr), i.wf keys = true → decode keys (encode i) = .ok i

/-- The same through the table word, under the key names of power-on. -/
def Obligations.TableWordAfterEncode : Prop :=
  ∀ i : Instr, i.wf Config.params.keyNames = true → decodeTableWord (encodeWord i).1 (encodeWord i).2 = some i

/-- `split_consecutive` (R302): maximal non-empty runs of bytes that are no delimiters, each with the offset of its
first byte, in order; a source line's delimiters are space and tab. -/
def Obligations.TokensAreMaximalRuns : Prop :=
  (∀ (isDelim : Byte → Bool) (text : List Byte),
    (∀ o t, (o, t) ∈ Lexer.splitConsecutive isDelim 0 text →
      t ≠ [] ∧ (∀ b ∈ t, isDelim b = false) ∧ (text.drop o).take t.length = t ∧
      (o = 0 ∨ ∃ b, text[o - 1]? = some b ∧ isDelim b = true) ∧
      (∀ b, text[o + t.length]? = some b → isDelim b = true)) ∧
    ((Lexer.splitConsecutive isDelim 0 text).map (·.2)).flatten = text.filter (fun b => !isDelim b) ∧
    (Lexer.splitConsecutive isDelim 0 text).Pairwise (fun a b => a.1 < b.1)) ∧
  (∀ text, Lexer.tokenize text =
    Lexer.splitConsecutive (fun b => b == 0x20#8 || b == 0x09#8) 0 (Lexer.stripComment text)) ∧
  Lexer.splitConsecutive (· == 0x20#8) 0 (bytes " a   bb ") = [(1, bytes "a"), (5, bytes "bb")]

/-- A load is all or nothing (R340): a parse error leaves no program, status NoProgram and the error; otherwise the
program and its labels are installed and the core is reset. A parse error holds the code of its kind (R1101, R1102). -/
def Obligations.LoadIsAllOrNothing : Prop :=
  ∀ (s : State) (source : List Byte),
    (∀ e, parseProgram s.params source = .error e →
      (s.load source).program = none ∧ (s.load source).status = .noProgram ∧ (s.load source).loadError = some e ∧
      e.code = (match e.kind with
        | .unknownInstruction => 1
        | .arityMismatch => 2
        | .unresolvedName => 3
        | .malformedOperand => 4
        | .duplicateLabel => 5)) ∧
    (∀ records labels, parseProgram s.params source = .ok (records, labels) →
      s.load source = { s with program := some records, labels := labels, loadError := none }.restart)

/-- An accepted program has one record for each line, in order, and each holds what its line decodes to by itself and
the columns of the operand tokens; there are no more lines than `MAX_LINES` (R300, R303, R310). The label table maps
exactly the names of the label lines, each to its line (R305). -/
def Obligations.LoadedRecordsAreTheLines : Prop :=
  ∀ (p : Params) (source : List Byte) (records : List Record) (labels : LabelTable),
    parseProgram p source = .ok (records, labels) →
    records.length = (Lexer.splitLines source).length ∧
    (∀ limit, p.maxLines = some limit → records.length ≤ limit) ∧
    (∀ (i : Nat) (r : Record), records[i]? = some r → r.line = i ∧
      ∃ line, (Lexer.splitLines source)[i]? = some line ∧ decode p.keyNames line = .ok r.instr ∧
        r.cols = (Lexer.tokenize line).tail.map (·.1)) ∧
    (∀ (n : Ident) (i : Nat), lookupIn labels n = some i ↔
      ∃ line col, (Lexer.splitLines source)[i]? = some line ∧
        Decoder.decodeLine ⟨p.keyNames, none⟩ line = .ok (.label n col))

/-! ### binary64 -/

/-- Rounding (R30, R401), and the operations that round their exact result once (R403 to R406), with `abs` (R408).
Rounding `n / d` units of 2^-1074 gives a nearest finite datum, of two equally near ones that with the even significand,
and an infinity exactly from half a unit above the largest finite datum on. A sum, product or quotient of finite data is
the rounded exact one: an exact zero sum is `-0` only for two negative operands, and products and quotients have the
exclusive or of the signs. The infinities, zero divisors and NaN are as the rules say. A finite datum's magnitude in
units is its 53-bit significand (52 bits for a subnormal number) scaled by its exponent (R30). -/
def Obligations.RoundingIsToNearestEven : Prop :=
  (∀ (s : Bool) (e : Fin 2047) (f : BitVec 52),
    F64.units e f = (if e.val = 0 then f.toNat else (2 ^ 52 + f.toNat) * 2 ^ (e.val - 1)) ∧
    F64.signedUnits s e f = (if s then -(F64.units e f : Int) else (F64.units e f : Int)) ∧
    F64.neg (.fin s e f) = .fin (!s) e f ∧ F64.neg (.inf s) = .inf (!s) ∧ F64.neg .nan = .nan) ∧
  (∀ s : Bool, F64.zeroOf s = .fin s 0 0) ∧ F64.zero = .fin false 0 0 ∧ F64.one = .fin false 1023 0 ∧
  (∀ (neg : Bool) (n d : Nat), 0 < d →
    F64.roundUnits neg n d ≠ .nan ∧
    (∀ s e f, F64.roundUnits neg n d = .fin s e f → s = neg ∧
      ∀ (g : Fin 2047) (h : BitVec 52),
        ((F64.units e f * d : Nat) - n : Int).natAbs ≤ ((F64.units g h * d : Nat) - n : Int).natAbs ∧
        (((F64.units e f * d : Nat) - n : Int).natAbs = ((F64.units g h * d : Nat) - n : Int).natAbs →
          F64.units g h ≠ F64.units e f → f.toNat % 2 = 0)) ∧
    (∀ s, F64.roundUnits neg n d = .inf s → s = neg) ∧
    ((∃ s, F64.roundUnits neg n d = .inf s) ↔ (2 ^ 54 - 1) * 2 ^ 2044 * d ≤ n) ∧
    F64.roundUnits neg 0 d = F64.zeroOf neg) ∧
  F64.unitsPerOne = 2 ^ 1074 ∧
  (∀ (s t : Bool) (e g : Fin 2047) (f h : BitVec 52),
    let sum := F64.signedUnits s e f + F64.signedUnits t g h
    (sum = 0 → F64.add (.fin s e f) (.fin t g h) = F64.zeroOf (s && t)) ∧
    (sum ≠ 0 → F64.add (.fin s e f) (.fin t g h) = F64.roundUnits (decide (sum < 0)) sum.natAbs 1) ∧
    F64.mul (.fin s e f) (.fin t g h) = F64.roundUnits (s ^^ t) (F64.units e f * F64.units g h) F64.unitsPerOne ∧
    (F64.units g h ≠ 0 →
      F64.div (.fin s e f) (.fin t g h) = F64.roundUnits (s ^^ t) (F64.units e f * F64.unitsPerOne) (F64.units g h)) ∧
    (F64.units g h = 0 → F64.units e f ≠ 0 → F64.div (.fin s e f) (.fin t g h) = .inf (s ^^ t)) ∧
    (F64.units g h = 0 → F64.units e f = 0 → F64.div (.fin s e f) (.fin t g h) = .nan)) ∧
  (∀ (s t : Bool) (e : Fin 2047) (f : BitVec 52),
    F64.add (.inf s) (.inf t) = (if s = t then .inf s else .nan) ∧
    F64.add (.inf s) (.fin t e f) = .inf s ∧ F64.add (.fin t e f) (.inf s) = .inf s ∧
    F64.mul (.inf s) (.inf t) = .inf (s ^^ t) ∧
    (F64.units e f = 0 → F64.mul (.inf s) (.fin t e f) = .nan ∧ F64.mul (.fin t e f) (.inf s) = .nan) ∧
    (F64.units e f ≠ 0 →
      F64.mul (.inf s) (.fin t e f) = .inf (s ^^ t) ∧ F64.mul (.fin t e f) (.inf s) = .inf (t ^^ s)) ∧
    F64.div (.inf s) (.inf t) = .nan ∧ F64.div (.inf s) (.fin t e f) = .inf (s ^^ t) ∧
    F64.div (.fin t e f) (.inf s) = F64.zeroOf (t ^^ s)) ∧
  (∀ a : F64, F64.add .nan a = .nan ∧ F64.add a .nan = .nan ∧ F64.mul .nan a = .nan ∧ F64.mul a .nan = .nan ∧
    F64.div .nan a = .nan ∧ F64.div a .nan = .nan) ∧
  (∀ (a : F64) (s : Bool) (e : Fin 2047) (f : BitVec 52),
    F64.sub a (.fin s e f) = F64.add a (.fin (!s) e f) ∧ F64.sub a (.inf s) = F64.add a (.inf (!s)) ∧
    F64.sub a .nan = .nan ∧ F64.sub .nan a = .nan ∧
    F64.abs (.fin s e f) = .fin false e f ∧ F64.abs (.inf s) = .inf false ∧ F64.abs .nan = .nan)

/-- `fmod` of finite data is the exact remainder with the sign of the dividend, and `mod` adds the divisor when that is
negative (R407). A zero divisor, an infinite dividend and a NaN give NaN, and an infinite divisor gives the dividend. -/
def Obligations.RemainderIsExact : Prop :=
  (∀ (s t : Bool) (e g : Fin 2047) (f h : BitVec 52), F64.units g h ≠ 0 →
    ∃ e' f', F64.fmod (.fin s e f) (.fin t g h) = .fin s e' f' ∧
      F64.units e' f' = F64.units e f % F64.units g h) ∧
  (∀ (s t : Bool) (e g : Fin 2047) (f h : BitVec 52), F64.units g h = 0 →
    F64.fmod (.fin s e f) (.fin t g h) = .nan) ∧
  (∀ (s t : Bool) (e : Fin 2047) (f : BitVec 52), F64.fmod (.fin s e f) (.inf t) = .fin s e f) ∧
  (∀ (s : Bool) (a : F64), F64.fmod (.inf s) a = .nan ∧ F64.fmod .nan a = .nan ∧ F64.fmod a .nan = .nan) ∧
  (∀ a b : F64, F64.mod a b =
    if F64.lt (F64.fmod a b) F64.zero = true then F64.add (F64.fmod a b) b else F64.fmod a b)

/-- The square root of a positive datum is correctly rounded (R409): between it and any other datum the exact root
lies on its side of the middle. A zero and `+Inf` are their own roots; negative numbers, `-Inf` and NaN give NaN. -/
def Obligations.SquareRootIsNearest : Prop :=
  (∀ (e : Fin 2047) (f : BitVec 52), F64.units e f ≠ 0 →
    ∃ g h, F64.sqrt (.fin false e f) = .fin false g h ∧
      ∀ (g' : Fin 2047) (h' : BitVec 52),
        (F64.units g' h' < F64.units g h →
          (F64.units g h + F64.units g' h') ^ 2 ≤ 4 * (F64.units e f * F64.unitsPerOne)) ∧
        (F64.units g h < F64.units g' h' →
          4 * (F64.units e f * F64.unitsPerOne) ≤ (F64.units g h + F64.units g' h') ^ 2)) ∧
  (∀ (e : Fin 2047) (f : BitVec 52), F64.units e f ≠ 0 → F64.sqrt (.fin true e f) = .nan) ∧
  (∀ s : Bool, F64.sqrt (F64.zeroOf s) = F64.zeroOf s) ∧
  F64.sqrt (.inf false) = .inf false ∧ F64.sqrt (.inf true) = .nan ∧ F64.sqrt .nan = .nan

/-- Rounding to an integral value (R410 to R413) is exact and keeps the sign, in each of the five directions; the
infinities are kept, and NaN gives NaN. -/
def Obligations.IntegralRoundingIsExact : Prop :=
  (∀ d : F64.Dir, F64.roundToIntegral d .nan = .nan ∧ ∀ s, F64.roundToIntegral d (.inf s) = .inf s) ∧
  ∀ (d : F64.Dir) (s : Bool) (e : Fin 2047) (f : BitVec 52),
    let whole := F64.units e f / F64.unitsPerOne
    let rest := F64.units e f % F64.unitsPerOne
    ∃ e' f', F64.roundToIntegral d (.fin s e f) = .fin s e' f' ∧
      F64.units e' f' = F64.unitsPerOne *
        (match d with
         | .toZero => whole
         | .up => if s = false ∧ rest ≠ 0 then whole + 1 else whole
         | .down => if s = true ∧ rest ≠ 0 then whole + 1 else whole
         | .halfAway => if F64.unitsPerOne ≤ 2 * rest then whole + 1 else whole
         | .halfEven =>
           if F64.unitsPerOne < 2 * rest ∨ (F64.unitsPerOne = 2 * rest ∧ whole % 2 = 1) then whole + 1 else whole)

/-- Integers up to 2^53 convert to binary64 and back without loss, and through the `W`-bit integers of R500 when they
fit in them. Of any finite datum `toInt` takes the integer part toward zero, clamped under I64 and wrapped to 53 bits
under I53 (the reading of log 33); NaN gives 0, and an infinity the bound on its side under I64 and 0 under I53.
`fromInt` gives the datum nearest to the signed integer, and so do the conversions of integers and of natural numbers
(line numbers, counts, stack indices). -/
def Obligations.IntegersConvertExactly : Prop :=
  (∀ (s : Bool) (e : Fin 2047) (f : BitVec 52),
    let t : Int := if s then -((F64.units e f / 2 ^ 1074 : Nat) : Int) else ((F64.units e f / 2 ^ 1074 : Nat) : Int)
    (toInt .i64 (.fin s e f)).toInt = max (-(2 ^ 63)) (min t (2 ^ 63 - 1)) ∧
    -(2 ^ 52) ≤ (toInt .i53 (.fin s e f)).toInt ∧ (toInt .i53 (.fin s e f)).toInt < 2 ^ 52 ∧
    ((toInt .i53 (.fin s e f)).toInt - t) % 2 ^ 53 = 0) ∧
  bitWidth .i64 = 64 ∧ bitWidth .i53 = 53 ∧
  (∀ m : BitwiseModel, toInt m .nan = 0) ∧ (∀ s, toInt .i53 (.inf s) = 0) ∧
  (toInt .i64 (.inf false)).toInt = 2 ^ 63 - 1 ∧ (toInt .i64 (.inf true)).toInt = -(2 ^ 63) ∧
  (∀ (m : BitwiseModel) (b : BitVec (bitWidth m)),
    fromInt m b = F64.roundUnits (decide (b.toInt < 0)) (b.toInt.natAbs * F64.unitsPerOne) 1) ∧
  (∀ i : Int, F64.ofInt i = F64.roundUnits (decide (i < 0)) (i.natAbs * F64.unitsPerOne) 1) ∧
  (∀ n : Nat, F64.ofNat n = F64.ofInt n) ∧
  ∀ i : Int, i.natAbs ≤ 2 ^ 53 →
    F64.truncInt (F64.ofInt i) = some i ∧
    ∀ m : BitwiseModel, -(2 ^ (bitWidth m - 1) : Nat) ≤ i → i < (2 ^ (bitWidth m - 1) : Nat) →
      toInt m (F64.ofInt i) = BitVec.ofInt (bitWidth m) i ∧ fromInt m (BitVec.ofInt (bitWidth m) i) = F64.ofInt i

/-- The order of data: the relations of R600, false with a NaN operand (and `!=` true), with each infinity equal to
itself and every finite datum between the two, and `maximum` and `minimum`
(R423, R424), which give NaN for a NaN operand, commute, put `+0` above `-0`, and give an operand that no operand is
beyond. -/
def Obligations.OrderOfData : Prop :=
  (∀ a : F64,
    F64.eq .nan a = false ∧ F64.eq a .nan = false ∧ F64.lt .nan a = false ∧ F64.lt a .nan = false ∧
    F64.le .nan a = false ∧ F64.le a .nan = false ∧ F64.gt .nan a = false ∧ F64.gt a .nan = false ∧
    F64.ge .nan a = false ∧ F64.ge a .nan = false ∧ F64.ne .nan a = true ∧ F64.ne a .nan = true) ∧
  (∀ (s t : Bool) (e g : Fin 2047) (f h : BitVec 52),
    (F64.eq (.fin s e f) (.fin t g h) = true ↔ F64.signedUnits s e f = F64.signedUnits t g h) ∧
    (F64.lt (.fin s e f) (.fin t g h) = true ↔ F64.signedUnits s e f < F64.signedUnits t g h) ∧
    (F64.le (.fin s e f) (.fin t g h) = true ↔ F64.signedUnits s e f ≤ F64.signedUnits t g h)) ∧
  (∀ (s t : Bool) (e : Fin 2047) (f : BitVec 52),
    F64.eq (.inf s) (.fin t e f) = false ∧ F64.eq (.fin t e f) (.inf s) = false ∧
    F64.lt (.inf s) (.fin t e f) = s ∧ F64.lt (.fin t e f) (.inf s) = !s ∧
    F64.le (.inf s) (.fin t e f) = s ∧ F64.le (.fin t e f) (.inf s) = !s) ∧
  (∀ s : Bool, F64.eq (.inf s) (.inf s) = true ∧ F64.lt (.inf s) (.inf s) = false ∧ F64.le (.inf s) (.inf s) = true ∧
    F64.eq (.inf s) (.inf (!s)) = false ∧ F64.lt (.inf s) (.inf (!s)) = s ∧ F64.le (.inf s) (.inf (!s)) = s) ∧
  (∀ a b : F64, F64.gt a b = F64.lt b a ∧ F64.ge a b = F64.le b a ∧ F64.ne a b = !F64.eq a b ∧
    (F64.isNaN a = true ↔ a = .nan)) ∧
  F64.eq (F64.zeroOf true) F64.zero = true ∧
  (∀ a b : F64,
    (a = .nan ∨ b = .nan → F64.max a b = .nan ∧ F64.min a b = .nan) ∧
    F64.max a b = F64.max b a ∧ F64.min a b = F64.min b a ∧
    (a ≠ .nan → b ≠ .nan →
      (F64.max a b = a ∨ F64.max a b = b) ∧ F64.ge (F64.max a b) a = true ∧ F64.ge (F64.max a b) b = true ∧
      (F64.min a b = a ∨ F64.min a b = b) ∧ F64.le (F64.min a b) a = true ∧ F64.le (F64.min a b) b = true)) ∧
  F64.max F64.zero (F64.zeroOf true) = F64.zero ∧ F64.min F64.zero (F64.zeroOf true) = F64.zeroOf true

/-- The values of `MathLib` that R402 requires, and the five values of `atan2`, which R422 states and the model takes
although R402 does not list them (DESIGN CHOICE, log 5). -/
def Obligations.MathLibRequiredValues : Prop :=
  (F64.sin .nan = .nan ∧ F64.cos .nan = .nan ∧ F64.tan .nan = .nan ∧ F64.asin .nan = .nan ∧ F64.acos .nan = .nan ∧
    F64.atan .nan = .nan ∧ F64.exp .nan = .nan ∧ F64.log .nan = .nan ∧
    ∀ v, F64.atan2 .nan v = .nan ∧ F64.atan2 v .nan = .nan) ∧
  (∀ s : Bool, F64.sin (F64.zeroOf s) = F64.zeroOf s ∧ F64.tan (F64.zeroOf s) = F64.zeroOf s ∧
    F64.asin (F64.zeroOf s) = F64.zeroOf s ∧ F64.atan (F64.zeroOf s) = F64.zeroOf s ∧
    F64.cos (F64.zeroOf s) = F64.one ∧ F64.exp (F64.zeroOf s) = F64.one ∧ F64.log (F64.zeroOf s) = .inf true ∧
    F64.sin (.inf s) = .nan ∧ F64.cos (.inf s) = .nan ∧ F64.tan (.inf s) = .nan) ∧
  F64.acos F64.one = F64.zero ∧ F64.log F64.one = F64.zero ∧
  (∀ v, F64.gt (F64.abs v) F64.one = true → F64.asin v = .nan ∧ F64.acos v = .nan) ∧
  F64.atan (.inf false) = .fin false 1023 0x921FB54442D18 ∧ F64.atan (.inf true) = .fin true 1023 0x921FB54442D18 ∧
  F64.exp (.inf false) = .inf false ∧ F64.exp (.inf true) = F64.zero ∧ F64.log (.inf false) = .inf false ∧
  (∀ v, F64.lt v F64.zero = true → F64.log v = .nan) ∧
  F64.atan2 F64.zero (.fin true 1023 0) = .fin false 1024 0x921FB54442D18 ∧
  F64.atan2 (F64.zeroOf true) (.fin true 1023 0) = .fin true 1024 0x921FB54442D18 ∧
  F64.atan2 F64.one F64.zero = .fin false 1023 0x921FB54442D18 ∧ F64.atan2 F64.zero F64.zero = F64.zero ∧
  F64.atan2 F64.one F64.one = .fin false 1022 0x921FB54442D18

/-! ### Operands -/

/-- `toIdx` (R120): NaN and the infinities raise the given error; a finite datum gives its integer part, rounded
toward zero, which is `trunc(v)` (R33). -/
def Obligations.IndexTruncation : Prop :=
  (∀ v : F64, F64.truncInt v = none ↔ v = .nan ∨ ∃ s, v = .inf s) ∧
  (∀ s e f, F64.truncInt (.fin s e f) =
    some (if s then -((F64.units e f / 2 ^ 1074 : Nat) : Int) else ((F64.units e f / 2 ^ 1074 : Nat) : Int))) ∧
  ∀ err : RunError,
    toIdx .nan err = .error (.raised err) ∧
    (∀ s, toIdx (.inf s) err = .error (.raised err)) ∧
    (∀ s e f, toIdx (.fin s e f) err =
      .ok (if s then -((F64.units e f / 2 ^ 1074 : Nat) : Int) else ((F64.units e f / 2 ^ 1074 : Nat) : Int)))

/-- `resolveReg(n, k)` (R321, with the range check of R121): the depth check, and then `k` hops, each through the
truncated value of a register, checked to be a register index. -/
def Obligations.RegisterIndirection : Prop :=
  ∀ (s : State) (n : Fin 18) (k : Nat),
    (s.params.maxIndirection < k → s.cellOf (.gpr n k) = .error (.raised .invalidIndirectionDepth)) ∧
    (k ≤ s.params.maxIndirection →
      (k = 0 → s.cellOf (.gpr n k) = .ok (.x n)) ∧
      (∀ j, k = j + 1 →
        (F64.truncInt (s.x.get n) = none → s.cellOf (.gpr n k) = .error (.raised .invalidRegisterIndex)) ∧
        (∀ i : Int, F64.truncInt (s.x.get n) = some i → (i < 0 ∨ 18 ≤ i) →
          s.cellOf (.gpr n k) = .error (.raised .invalidRegisterIndex)) ∧
        (∀ m : Fin 18, F64.truncInt (s.x.get n) = some (m.val : Int) →
          s.cellOf (.gpr n k) = s.cellOf (.gpr m j))))

/-- `bind(s)` (R326): the alias table, then the define table, then the label table, then UnresolvedName. -/
def Obligations.NameLookupOrder : Prop :=
  ∀ (s : State) (n : Ident),
    (∀ t, lookupIn s.aliases n = some t → s.binding n = .ok (.target t)) ∧
    (lookupIn s.aliases n = none →
      (∀ v, lookupIn s.defines n = some v → s.binding n = .ok (.constant v)) ∧
      (lookupIn s.defines n = none →
        (∀ l, lookupIn s.labels n = some l → s.binding n = .ok (.line l)) ∧
        (lookupIn s.labels n = none → s.binding n = .error (.raised .unresolvedName))))

/-- `P(o)` up to the host's answer (R323, R324): of the `k` register reads of an indirect pin the last one gives the
pin's index, which must be 0 to 5 and never names `db`. -/
def Obligations.PinResolution : Prop :=
  (∀ (s : State) (p : Pin), s.pin (.pin (.direct p)) = .ok p) ∧
  (∀ (s : State) (n : Fin 18) (k : Nat),
    (s.params.maxIndirection < k → s.pin (.pin (.ind n k)) = .error (.raised .invalidIndirectionDepth)) ∧
    (1 ≤ k → k ≤ s.params.maxIndirection →
      (∀ e, s.cellOf (.gpr n (k - 1)) = .error e → s.pin (.pin (.ind n k)) = .error e) ∧
      (∀ m : Fin 18, s.cellOf (.gpr n (k - 1)) = .ok (.x m) →
        (F64.truncInt (s.x.get m) = none → s.pin (.pin (.ind n k)) = .error (.raised .deviceNotFound)) ∧
        (∀ i : Int, F64.truncInt (s.x.get m) = some i → (i < 0 ∨ 5 < i) →
          s.pin (.pin (.ind n k)) = .error (.raised .deviceNotFound)) ∧
        (∀ p : Fin 6, F64.truncInt (s.x.get m) = some (p.val : Int) → s.pin (.pin (.ind n k)) = .ok (.d p))))) ∧
  (∀ (s : State) (n : Ident) (p : PinRef), s.binding n = .ok (.target (.pin p)) →
    s.pin (.name n) = s.pin (.pin p)) ∧
  (∀ (s : State) (n : Ident) (e : Exn), s.binding n = .error e → s.pin (.name n) = .error e)

/-- `M(o)` (R327): a mode by name, or by the truncated value 0, 1, 2 or 3; any other value is InvalidLogicType. -/
def Obligations.BatchModeNumbers : Prop :=
  ∀ (s : State),
    (∀ m, s.mode (.mode m) = .ok m) ∧
    (∀ (o : ValOp) (e : Exn), s.value o = .error e → s.mode (.val o) = .error e) ∧
    (∀ (o : ValOp) (v : F64), s.value o = .ok v →
      (F64.truncInt v = some 0 → s.mode (.val o) = .ok .average) ∧
      (F64.truncInt v = some 1 → s.mode (.val o) = .ok .sum) ∧
      (F64.truncInt v = some 2 → s.mode (.val o) = .ok .minimum) ∧
      (F64.truncInt v = some 3 → s.mode (.val o) = .ok .maximum) ∧
      (F64.truncInt v = none → s.mode (.val o) = .error (.raised .invalidLogicType)) ∧
      (∀ i : Int, F64.truncInt v = some i → (i < 0 ∨ 3 < i) → s.mode (.val o) = .error (.raised .invalidLogicType)))

/-- `stackAddr` (R211): StackUnderflow for NaN, an infinity or a negative index, StackOverflow from the capacity on,
the truncated index otherwise. -/
def Obligations.StackAddressCheck : Prop :=
  ∀ v : F64,
    (F64.truncInt v = none → stackAddr v = .error (.raised .stackUnderflow)) ∧
    (∀ i : Int, F64.truncInt v = some i →
      (i < 0 → stackAddr v = .error (.raised .stackUnderflow)) ∧
      (512 ≤ i → stackAddr v = .error (.raised .stackOverflow)) ∧
      (0 ≤ i → i < 512 → stackAddr v = .ok i.toNat))

/-- The register cells (R103): a write is read back, and is seen through another name exactly when both name one
cell, which is so for `sp` and `r16`, and for `ra` and `r17`, exactly when `SP_RA_ALIASED` holds. And what operands give
through them: `V(o)` (R320) is a number's datum, the contents of the cell a register descriptor names, or what a name is
bound to (a register, a constant, a label's line as a binary64); `D(o)` (R322) is the cell of a register or of the
register a name is bound to; `K(o)` (R325) is the named key or the operand's value. Errors of the name lookup and of the
index computation pass through, and nothing else is an error, but that a name bound to a thing its slot does not accept
stops the model (log 14). -/
def Obligations.RegisterCellsAndNames : Prop :=
  (∀ s : State,
    (∀ i, s.readCell (.x i) = s.x.get i) ∧
    (s.params.spRaAliased = false → s.readCell .sp = s.sp ∧ s.readCell .ra = s.ra) ∧
    (s.params.spRaAliased = true → s.readCell .sp = s.x.get 16 ∧ s.readCell .ra = s.x.get 17) ∧
    s.cellOf .sp = .ok .sp ∧ s.cellOf .ra = .ok .ra ∧
    (∀ r c, s.cellOf r = .ok c → s.value (.reg r) = .ok (s.readCell c) ∧ s.dest (.reg r) = .ok c) ∧
    (∀ r e, s.cellOf r = .error e → s.value (.reg r) = .error e ∧ s.dest (.reg r) = .error e) ∧
    (∀ v, s.value (.num v) = .ok v) ∧
    (∀ n r, s.binding n = .ok (.target (.reg r)) →
      s.value (.name n) = s.value (.reg r) ∧ s.dest (.name n) = s.dest (.reg r)) ∧
    (∀ n v, s.binding n = .ok (.constant v) →
      s.value (.name n) = .ok v ∧ s.dest (.name n) = .error (.stopped .nameCategory)) ∧
    (∀ n l, s.binding n = .ok (.line l) →
      s.value (.name n) = .ok (F64.ofNat l) ∧ s.dest (.name n) = .error (.stopped .nameCategory)) ∧
    (∀ n p, s.binding n = .ok (.target (.pin p)) →
      s.value (.name n) = .error (.stopped .nameCategory) ∧ s.dest (.name n) = .error (.stopped .nameCategory)) ∧
    (∀ n e, s.binding n = .error e → s.value (.name n) = .error e ∧ s.dest (.name n) = .error e) ∧
    (∀ k, s.key (.key k) = .ok (.named k)) ∧
    (∀ o v, s.value o = .ok v → s.key (.val o) = .ok (.numeric v)) ∧
    (∀ o e, s.value o = .error e → s.key (.val o) = .error e)) ∧
  ∀ (s : State) (v : F64),
    (∀ c d : Cell, s.home d = s.home c → (s.writeCell c v).readCell d = v) ∧
    (∀ c d : Cell, s.home d ≠ s.home c → (s.writeCell c v).readCell d = s.readCell d) ∧
    (∀ i j : Fin 18, s.home (.x i) = s.home (.x j) ↔ i = j) ∧
    (∀ i : Fin 18, s.home .sp = s.home (.x i) ↔ s.params.spRaAliased = true ∧ i = 16) ∧
    (∀ i : Fin 18, s.home .ra = s.home (.x i) ↔ s.params.spRaAliased = true ∧ i = 17) ∧
    s.home .sp ≠ s.home .ra

/-- `agg` (R707): 0 for no value; `Sum` from the left; `Average` is `Sum` over the count; `Minimum` and `Maximum` are
folds; one NaN makes every mode NaN. -/
def Obligations.AggregationOfReads : Prop :=
  (∀ m, aggregate m [] = F64.zero) ∧
  (∀ v vs, aggregate .sum (v :: vs) = vs.foldl F64.add v ∧
    aggregate .average (v :: vs) = F64.div (aggregate .sum (v :: vs)) (F64.ofNat (vs.length + 1)) ∧
    aggregate .minimum (v :: vs) = vs.foldl F64.min v ∧ aggregate .maximum (v :: vs) = vs.foldl F64.max v) ∧
  (∀ m vs, F64.nan ∈ vs → aggregate m vs = .nan)

/-! ### Arithmetic, bitwise and compare instructions (R400: destination first, sources left to right, one write) -/

/-- One-source arithmetic (R408 to R421, R426) and `not` (R506): the destination's cell holds the operation's result,
and nothing else changes. -/
def Obligations.UnaryInstructionsWriteResult : Prop :=
  ∀ (s : State) (r : RegOp) (a : ValOp) (c : Cell) (x : F64), s.dest r = .ok c → s.value a = .ok x →
    ∀ p ∈ [(Instr.abs r a, F64.abs x), (.sqrt r a, F64.sqrt x), (.ceil r a, F64.roundToIntegral .up x),
        (.floor r a, F64.roundToIntegral .down x), (.trunc r a, F64.roundToIntegral .toZero x),
        (.round r a, F64.roundToIntegral (match s.params.roundHalf with | .away => .halfAway | .even => .halfEven) x),
        (.exp r a, F64.exp x), (.log r a, F64.log x), (.sin r a, F64.sin x), (.cos r a, F64.cos x),
        (.tan r a, F64.tan x), (.asin r a, F64.asin x), (.acos r a, F64.acos x), (.atan r a, F64.atan x),
        (.move r a, x), (.not r a, fromInt s.params.bitwise (~~~(toInt s.params.bitwise x)))],
      WritesOnly (exec p.1 s) s c p.2

/-- Two-source arithmetic (R403 to R407, R422 to R424), and `select` (R427), where NaN counts as non-zero. -/
def Obligations.BinaryInstructionsWriteResult : Prop :=
  ∀ (s : State) (r : RegOp) (a b d : ValOp) (c : Cell) (x y z : F64),
    s.dest r = .ok c → s.value a = .ok x → s.value b = .ok y → s.value d = .ok z →
    ∀ p ∈ [(Instr.add r a b, F64.add x y), (.sub r a b, F64.sub x y), (.mul r a b, F64.mul x y),
        (.div r a b, F64.div x y), (.mod r a b, F64.mod x y), (.atan2 r a b, F64.atan2 x y),
        (.max r a b, F64.max x y), (.min r a b, F64.min x y),
        (.select r a b d, if F64.ne x F64.zero = true then y else z)],
      WritesOnly (exec p.1 s) s c p.2

/-- `rand` (R425): the destination holds the host's next draw, a number from 0 up to, but not including, 1. -/
def Obligations.RandomDraw : Prop :=
  (∀ (s : State) (r : RegOp) (c : Cell) (u : Draw) (q : Port), s.dest r = .ok c → s.port.nextDraw = (u, q) →
    WritesWithPort (exec (.rand r) s) s c u.value q) ∧
  (∀ u : Draw, F64.le F64.zero u.value = true ∧ F64.lt u.value F64.one = true)

/-- Two-source bitwise instructions and shifts (R502 to R505, R507 to R510) on the `W`-bit integers of R500. A count
outside 0 to `W - 1` gives 0, and for `sra` the sign (R501). -/
def Obligations.BitwiseInstructionsWriteResult : Prop :=
  ∀ (s : State) (r : RegOp) (a b : ValOp) (c : Cell) (x y : F64),
    s.dest r = .ok c → s.value a = .ok x → s.value b = .ok y →
    let m := s.params.bitwise
    let i := toInt m x
    let n := (toInt m y).toInt
    (∀ p ∈ [(Instr.and r a b, fromInt m (i &&& toInt m y)), (.or r a b, fromInt m (i ||| toInt m y)),
        (.xor r a b, fromInt m (i ^^^ toInt m y)), (.nor r a b, fromInt m (~~~(i ||| toInt m y)))],
      WritesOnly (exec p.1 s) s c p.2) ∧
    (0 ≤ n → n < bitWidth m →
      ∀ p ∈ [(Instr.sll r a b, fromInt m (i <<< n.toNat)), (.sla r a b, fromInt m (i <<< n.toNat)),
          (.srl r a b, fromInt m (i >>> n.toNat)), (.sra r a b, fromInt m (i.sshiftRight n.toNat))],
        WritesOnly (exec p.1 s) s c p.2) ∧
    (n < 0 ∨ bitWidth m ≤ n →
      ∀ p ∈ [(Instr.sll r a b, F64.zero), (.sla r a b, F64.zero), (.srl r a b, F64.zero),
          (.sra r a b, if i.toInt < 0 then F64.neg F64.one else F64.zero)],
        WritesOnly (exec p.1 s) s c p.2)

/-- Set on compare, approximate compare and NaN tests (R600, R601, R603 to R620): 1.0 or +0.0. The compare of a
zero with the factor `+Inf` follows the formula of R601 (log 36). -/
def Obligations.CompareInstructionsWriteBoolean : Prop :=
  ∀ (s : State) (r : RegOp) (a b d : ValOp) (c : Cell) (x y z : F64),
    s.dest r = .ok c → s.value a = .ok x → s.value b = .ok y → s.value d = .ok z →
    let eps := s.params.approxEps
    let near := F64.le (F64.abs (F64.sub x y)) (F64.max (F64.mul z (F64.max (F64.abs x) (F64.abs y))) eps)
    let nearZero := F64.le (F64.abs x) (F64.max (F64.mul y (F64.abs x)) eps)
    ∀ p ∈ [(Instr.seq r a b, F64.eq x y), (.sne r a b, !F64.eq x y), (.slt r a b, F64.lt x y), (.sle r a b, F64.le x y),
        (.sgt r a b, F64.lt y x), (.sge r a b, F64.le y x), (.seqz r a, F64.eq x F64.zero),
        (.snez r a, !F64.eq x F64.zero), (.sltz r a, F64.lt x F64.zero), (.slez r a, F64.le x F64.zero),
        (.sgtz r a, F64.lt F64.zero x), (.sgez r a, F64.le F64.zero x), (.snan r a, decide (x = .nan)),
        (.snanz r a, decide (x ≠ .nan)), (.sap r a b d, near), (.sna r a b d, !near), (.sapz r a b, nearZero),
        (.snaz r a b, !nearZero)],
      WritesOnly (exec p.1 s) s c (if p.2 then F64.one else F64.zero)

/-- Of any instruction but `label`, which resolves no operand (R1012), the first operand, from the left, whose
resolution raises an error decides the error (R328, R1112): nothing is written, and of the device port only the pins
before it have been asked for. Where the first that does not resolve is a name bound to a thing its slot does not
accept, the model stops (log 14). -/
def Obligations.FirstOperandErrorDecides : Prop :=
  ∀ (i : Instr) (s : State) (p : Port), (∀ d n, i ≠ .label d n) →
    (∀ e, s.firstFailure (i.slots.zip i.operands) s.port = some (.raised e, p) → Raises (exec i s) s e p) ∧
    (∀ f, s.firstFailure (i.slots.zip i.operands) s.port = some (.stopped f, p) → exec i s = .fault f)

/-! ### Device instructions -/

/-- Loads of one device (R710, R712, R714, R715): the destination holds the host's answer, and nothing else changes but
the device port. -/
def Obligations.DeviceLoadsWriteAnswer : Prop :=
  ∀ (s : State) (r : RegOp) (k : KeyOp) (c : Cell) (kk : Key) (h : Handle) (q q' : Port) (v : F64),
    s.dest r = .ok c → s.key k = .ok kk →
    (∀ (d : PinOp) (p : Pin) (a : ValOp) (x : F64), s.pin d = .ok p → s.port.askPin p = (some h, q) →
      s.value a = .ok x →
      (q.askRead (.read h kk) = (.value v, q') → WritesWithPort (exec (.l r d k) s) s c v q') ∧
      (q.askRead (.readSlot h x kk) = (.value v, q') → WritesWithPort (exec (.ls r d a k) s) s c v q') ∧
      (q.askRead (.readReagent h kk x) = (.value v, q') → WritesWithPort (exec (.lr r d k a) s) s c v q')) ∧
    (∀ (id : ValOp) (x : F64), s.value id = .ok x → s.port.askId x = (some h, q) →
      q.askRead (.read h kk) = (.value v, q') → WritesWithPort (exec (.ld r id k) s) s c v q')

/-- Stores to one device (R711, R713, R716): one call of the device port with the value unchanged, and nothing of the
core is written. Every call of the port is recorded, newest first (log 11), and answered by the next answer on the tape
of its kind (log 6); a pin is answered by the binding table where no answer waits, and `db` always (log 7); the handles of
a set are distinct (R700; log 10). -/
def Obligations.DeviceStoresCallTheHost : Prop :=
  (∀ (p : Port) (c : DevCall),
    p.record c = { p with calls := c :: p.calls } ∧
    (p.askRead c).2.calls = c :: p.calls ∧ (p.askWrite c).2.calls = c :: p.calls ∧
    (∀ a rest, p.readTape = a :: rest → p.askRead c = (a, { p with readTape := rest, calls := c :: p.calls })) ∧
    (∀ a rest, p.writeTape = a :: rest → p.askWrite c = (a, { p with writeTape := rest, calls := c :: p.calls })) ∧
    (∀ u rest, p.drawTape = u :: rest → p.nextDraw = (u, { p with drawTape := rest }))) ∧
  (∀ (p : Port) (i : Fin 6),
    p.askPin .db = (p.pins.db, p.record (.resolvePin .db)) ∧
    (p.pinTape = [] → p.askPin (.d i) = (p.pins.d.get i, p.record (.resolvePin (.d i)))) ∧
    (∀ a rest, p.pinTape = a :: rest →
      p.askPin (.d i) = (a, { p.record (.resolvePin (.d i)) with pinTape := rest }))) ∧
  (∀ (p : Port) (id : F64), (p.askId id).2.calls = .resolveId id :: p.calls ∧
    (∀ a rest, p.idTape = a :: rest → p.askId id = (a, { p.record (.resolveId id) with idTape := rest }))) ∧
  (∀ (p : Port) (t : F64) (n : Option F64),
    (p.askSet t n).2.calls = .resolveHash t n :: p.calls ∧ (p.askSet t n).1.Nodup ∧
    (∀ a rest, p.setTape = a :: rest →
      (∀ h, h ∈ (p.askSet t n).1 ↔ h ∈ a) ∧ (p.askSet t n).1.Sublist a ∧
      (p.askSet t n).2 = { p.record (.resolveHash t n) with setTape := rest })) ∧
  ∀ (s : State) (k : KeyOp) (a : ValOp) (kk : Key) (v : F64) (h : Handle) (q q' : Port),
    s.key k = .ok kk → s.value a = .ok v →
    (∀ (d : PinOp) (p : Pin) (o : ValOp) (x : F64), s.pin d = .ok p → s.port.askPin p = (some h, q) →
      s.value o = .ok x →
      (q.askWrite (.write h kk v) = (.done, q') → exec (.s d k a) s = .next { s with port := q' }) ∧
      (q.askWrite (.writeSlot h x kk v) = (.done, q') → exec (.ss d o k a) s = .next { s with port := q' })) ∧
    (∀ (id : ValOp) (x : F64), s.value id = .ok x → s.port.askId x = (some h, q) →
      q.askWrite (.write h kk v) = (.done, q') → exec (.sd id k a) s = .next { s with port := q' })

/-- Memory of a device that is not this core's stack (R720 to R725): the host answers. -/
def Obligations.DeviceMemoryCallsTheHost : Prop :=
  ∀ (s : State) (h : Handle) (q q' : Port), (s.params.dbMemoryIsStack = false ∨ s.port.pins.db ≠ some h) →
    ∀ (r : RegOp) (addr a : ValOp) (c : Cell) (x v : F64), s.dest r = .ok c → s.value addr = .ok x → s.value a = .ok v →
    (∀ (d : PinOp) (p : Pin), s.pin d = .ok p → s.port.askPin p = (some h, q) →
      (∀ w, q.askRead (.readMem h x) = (.value w, q') → WritesWithPort (exec (.get r d addr) s) s c w q') ∧
      (q.askWrite (.writeMem h x v) = (.done, q') → exec (.put d addr a) s = .next { s with port := q' }) ∧
      exec (.clr d) s = .next { s with port := q.record (.clearMem h) }) ∧
    (∀ (id : ValOp) (i : F64), s.value id = .ok i → s.port.askId i = (some h, q) →
      (∀ w, q.askRead (.readMem h x) = (.value w, q') → WritesWithPort (exec (.getd r id addr) s) s c w q') ∧
      (q.askWrite (.writeMem h x v) = (.done, q') → exec (.putd id addr a) s = .next { s with port := q' }) ∧
      exec (.clrd id) s = .next { s with port := q.record (.clearMem h) })

/-- The housing's memory under `DB_MEMORY_ALIASES_STACK` (R731): the memory instructions on the handle of `db` act on
this core's stack, with the address check of R211, and leave `sp` alone. -/
def Obligations.HousingMemoryIsTheStack : Prop :=
  ∀ (s : State) (h : Handle) (q : Port), s.params.dbMemoryIsStack = true → s.port.pins.db = some h →
    s.stack.wf = true →
    ∀ (r : RegOp) (addr a : ValOp) (c : Cell) (x v : F64), s.dest r = .ok c → s.value addr = .ok x → s.value a = .ok v →
    ∀ (d : PinOp) (p : Pin) (id : ValOp) (i : F64), s.pin d = .ok p → s.value id = .ok i →
    (∀ j, stackAddr x = .ok j →
      (s.port.askPin p = (some h, q) → WritesWithPort (exec (.get r d addr) s) s c (s.stack.read j) q) ∧
      (s.port.askId i = (some h, q) → WritesWithPort (exec (.getd r id addr) s) s c (s.stack.read j) q) ∧
      (s.port.askPin p = (some h, q) → ∃ t, exec (.put d addr a) s = .next t ∧ t.stack.read j = v ∧
        StackKeptBut s t j ∧ { t with stack := s.stack } = { s with port := q }) ∧
      (s.port.askId i = (some h, q) → ∃ t, exec (.putd id addr a) s = .next t ∧ t.stack.read j = v ∧
        StackKeptBut s t j ∧ { t with stack := s.stack } = { s with port := q })) ∧
    (∀ e, stackAddr x = .error (.raised e) →
      (s.port.askPin p = (some h, q) →
        Raises (exec (.get r d addr) s) s e q ∧ Raises (exec (.put d addr a) s) s e q) ∧
      (s.port.askId i = (some h, q) →
        Raises (exec (.getd r id addr) s) s e q ∧ Raises (exec (.putd id addr a) s) s e q)) ∧
    (s.port.askPin p = (some h, q) → ∃ t, exec (.clr d) s = .next t ∧ (∀ j, t.stack.read j = F64.zero) ∧
      { t with stack := s.stack } = { s with port := q }) ∧
    (s.port.askId i = (some h, q) → ∃ t, exec (.clrd id) s = .next t ∧ (∀ j, t.stack.read j = F64.zero) ∧
      { t with stack := s.stack } = { s with port := q })

/-- Errors of the direct device instructions (R704): an unbound pin or an unknown id is DeviceNotFound, once the operands
are resolved and with only the resolving call made, and a failure answer raises that failure's error, which is of the same name. -/
def Obligations.DeviceErrorsAreRaised : Prop :=
  failError .invalidLogicType = .invalidLogicType ∧ failError .permissionDenied = .permissionDenied ∧
  ∀ (s : State) (r : RegOp) (k : KeyOp) (a b : ValOp) (c : Cell) (kk : Key) (x y : F64),
    s.dest r = .ok c → s.key k = .ok kk → s.value a = .ok x → s.value b = .ok y →
    (∀ (d : PinOp) (p : Pin) (q : Port), s.pin d = .ok p → s.port.askPin p = (none, q) →
      ∀ i ∈ [Instr.l r d k, .s d k a, .ls r d a k, .ss d a k b, .lr r d k a, .get r d a, .put d a b, .clr d],
        Raises (exec i s) s .deviceNotFound q) ∧
    (∀ (id : ValOp) (z : F64) (q : Port), s.value id = .ok z → s.port.askId z = (none, q) →
      ∀ i ∈ [Instr.ld r id k, .sd id k a, .getd r id a, .putd id a b, .clrd id],
        Raises (exec i s) s .deviceNotFound q) ∧
    (∀ (d : PinOp) (p : Pin) (h : Handle) (q q' : Port) (f : DevFail), s.pin d = .ok p →
      s.port.askPin p = (some h, q) →
      (q.askRead (.read h kk) = (.fails f, q') → Raises (exec (.l r d k) s) s (failError f) q') ∧
      (q.askRead (.readSlot h x kk) = (.fails f, q') → Raises (exec (.ls r d a k) s) s (failError f) q') ∧
      (q.askWrite (.write h kk x) = (.fails f, q') → Raises (exec (.s d k a) s) s (failError f) q') ∧
      (q.askWrite (.writeSlot h x kk y) = (.fails f, q') → Raises (exec (.ss d a k b) s) s (failError f) q') ∧
      (q.askRead (.readReagent h kk x) = (.fails .invalidLogicType, q') →
        Raises (exec (.lr r d k a) s) s .invalidLogicType q') ∧
      ((s.params.dbMemoryIsStack = false ∨ s.port.pins.db ≠ some h) → q.askRead (.readMem h x) = (.fails .invalidLogicType, q') →
        Raises (exec (.get r d a) s) s .invalidLogicType q') ∧
      ((s.params.dbMemoryIsStack = false ∨ s.port.pins.db ≠ some h) → q.askWrite (.writeMem h x y) = (.fails .invalidLogicType, q') →
        Raises (exec (.put d a b) s) s .invalidLogicType q')) ∧
    (∀ (id : ValOp) (z : F64) (h : Handle) (q q' : Port) (f : DevFail), s.value id = .ok z →
      s.port.askId z = (some h, q) →
      (q.askRead (.read h kk) = (.fails f, q') → Raises (exec (.ld r id k) s) s (failError f) q') ∧
      (q.askWrite (.write h kk x) = (.fails f, q') → Raises (exec (.sd id k a) s) s (failError f) q') ∧
      ((s.params.dbMemoryIsStack = false ∨ s.port.pins.db ≠ some h) → q.askRead (.readMem h x) = (.fails .invalidLogicType, q') →
        Raises (exec (.getd r id a) s) s .invalidLogicType q') ∧
      ((s.params.dbMemoryIsStack = false ∨ s.port.pins.db ≠ some h) → q.askWrite (.writeMem h x y) = (.fails .invalidLogicType, q') →
        Raises (exec (.putd id a b) s) s .invalidLogicType q'))

/-- Network loads (R740 to R743, R708): one resolution, a read from every handle in order, and the aggregate in the
destination; the first failing read raises its error and nothing is written. -/
def Obligations.BatchLoadsAggregate : Prop :=
  ∀ (s : State) (r : RegOp) (th nm sl : ValOp) (k : KeyOp) (m : ModeOp) (c : Cell) (t n i : F64) (kk : Key)
    (mm : BatchMode) (hs : List Handle) (q : Port),
    s.dest r = .ok c → s.value th = .ok t → s.value nm = .ok n → s.value sl = .ok i → s.key k = .ok kk →
    s.mode m = .ok mm →
    (s.port.askSet t none = (hs, q) →
      (∀ vs q', q.reads (.read · kk) hs = .ok (vs, q') →
        WritesWithPort (exec (.lb r th k m) s) s c (aggregate mm vs) q') ∧
      (∀ vs q', q.reads (.readSlot · i kk) hs = .ok (vs, q') →
        WritesWithPort (exec (.lbs r th sl k m) s) s c (aggregate mm vs) q') ∧
      (∀ f q', q.reads (.read · kk) hs = .error (f, q') → Raises (exec (.lb r th k m) s) s (failError f) q') ∧
      (∀ f q', q.reads (.readSlot · i kk) hs = .error (f, q') →
        Raises (exec (.lbs r th sl k m) s) s (failError f) q')) ∧
    (s.port.askSet t (some n) = (hs, q) →
      (∀ vs q', q.reads (.read · kk) hs = .ok (vs, q') →
        WritesWithPort (exec (.lbn r th nm k m) s) s c (aggregate mm vs) q') ∧
      (∀ vs q', q.reads (.readSlot · i kk) hs = .ok (vs, q') →
        WritesWithPort (exec (.lbns r th nm sl k m) s) s c (aggregate mm vs) q') ∧
      (∀ f q', q.reads (.read · kk) hs = .error (f, q') → Raises (exec (.lbn r th nm k m) s) s (failError f) q') ∧
      (∀ f q', q.reads (.readSlot · i kk) hs = .error (f, q') →
        Raises (exec (.lbns r th nm sl k m) s) s (failError f) q'))

/-- Network stores (R744 to R746, R708): one resolution and a write to every handle in order; the first failing write
raises its error, and the calls to earlier handles stay made. -/
def Obligations.BatchStoresWriteEveryMatch : Prop :=
  ∀ (s : State) (th nm sl a : ValOp) (k : KeyOp) (t n i v : F64) (kk : Key) (hs : List Handle) (q : Port),
    s.value th = .ok t → s.value nm = .ok n → s.value sl = .ok i → s.value a = .ok v → s.key k = .ok kk →
    (s.port.askSet t none = (hs, q) →
      (∀ q', q.writes (.write · kk v) hs = .ok q' → exec (.sb th k a) s = .next { s with port := q' }) ∧
      (∀ q', q.writes (.writeSlot · i kk v) hs = .ok q' → exec (.sbs th sl k a) s = .next { s with port := q' }) ∧
      (∀ f q', q.writes (.write · kk v) hs = .error (f, q') → Raises (exec (.sb th k a) s) s (failError f) q') ∧
      (∀ f q', q.writes (.writeSlot · i kk v) hs = .error (f, q') →
        Raises (exec (.sbs th sl k a) s) s (failError f) q')) ∧
    (s.port.askSet t (some n) = (hs, q) →
      (∀ q', q.writes (.write · kk v) hs = .ok q' → exec (.sbn th nm k a) s = .next { s with port := q' }) ∧
      (∀ f q', q.writes (.write · kk v) hs = .error (f, q') → Raises (exec (.sbn th nm k a) s) s (failError f) q'))

/-! ### Stack instructions -/

/-- `push` (R810): the value goes to the checked cell at `sp`, and `sp` becomes the cell's index plus one; a failed
operand or check writes nothing. For `-1 < sp < 0` the check truncates to cell 0, as the rule's pseudocode says and its
prose does not (log 35). -/
def Obligations.PushWritesCellThenMoves : Prop :=
  ∀ (s : State) (a : ValOp),
    (∀ v i, s.stack.wf = true → s.value a = .ok v → stackAddr (s.readCell .sp) = .ok i →
      ∃ t, exec (.push a) s = .next t ∧ t.stack.read i = v ∧ StackKeptBut s t i ∧
        t.readCell .sp = F64.ofNat (i + 1) ∧ RegistersKept s t [.sp] ∧
        SameButRegisters { s with stack := t.stack } t) ∧
    (∀ e, s.value a = .error (.raised e) → Raises (exec (.push a) s) s e s.port) ∧
    (∀ v e, s.value a = .ok v → stackAddr (s.readCell .sp) = .error (.raised e) → Raises (exec (.push a) s) s e s.port)

/-- `pop` (R811): `sp` becomes the checked index below it, and then the destination gets that cell's value, so that
`pop sp` leaves the popped value; a failed operand or check writes nothing. -/
def Obligations.PopReadsCellAfterMove : Prop :=
  ∀ (s : State) (r : RegOp),
    (∀ c i, s.dest r = .ok c → stackAddr (F64.sub (s.readCell .sp) F64.one) = .ok i →
      ∃ t, exec (.pop r) s = .next t ∧ t.readCell c = s.stack.read i ∧
        (s.home .sp ≠ s.home c → t.readCell .sp = F64.ofNat i) ∧ RegistersKept s t [.sp, c] ∧ StackKept s t ∧
        SameButRegisters s t) ∧
    (∀ e, s.dest r = .error (.raised e) → Raises (exec (.pop r) s) s e s.port) ∧
    (∀ c e, s.dest r = .ok c → stackAddr (F64.sub (s.readCell .sp) F64.one) = .error (.raised e) →
      Raises (exec (.pop r) s) s e s.port)

/-- `peek` (R812) and `poke` (R813): they read the cell below `sp` and write the cell at an address, with the checks of
R211, and never write `sp` but as a destination. -/
def Obligations.PeekAndPokeLeaveSp : Prop :=
  (∀ (s : State) (r : RegOp),
    (∀ c i, s.dest r = .ok c → stackAddr (F64.sub (s.readCell .sp) F64.one) = .ok i →
      WritesOnly (exec (.peek r) s) s c (s.stack.read i)) ∧
    (∀ e, s.dest r = .error (.raised e) → Raises (exec (.peek r) s) s e s.port) ∧
    (∀ c e, s.dest r = .ok c → stackAddr (F64.sub (s.readCell .sp) F64.one) = .error (.raised e) →
      Raises (exec (.peek r) s) s e s.port)) ∧
  (∀ (s : State) (a b : ValOp),
    (∀ x v i, s.stack.wf = true → s.value a = .ok x → s.value b = .ok v → stackAddr x = .ok i →
      ∃ t, exec (.poke a b) s = .next t ∧ t.stack.read i = v ∧ StackKeptBut s t i ∧
        { t with stack := s.stack } = s) ∧
    (∀ e, s.value a = .error (.raised e) → Raises (exec (.poke a b) s) s e s.port) ∧
    (∀ x e, s.value a = .ok x → s.value b = .error (.raised e) → Raises (exec (.poke a b) s) s e s.port) ∧
    (∀ x v e, s.value a = .ok x → s.value b = .ok v → stackAddr x = .error (.raised e) →
      Raises (exec (.poke a b) s) s e s.port))

/-- Push N values and pop k of them, N at most 512, from an empty stack (R814): the k-th pop gives the k-th value from
the end, and `sp` counts what is left. -/
def Obligations.LastInFirstOut : Prop :=
  ∀ (s : State) (vs : List F64) (k : Nat) (v : F64), s.stack.wf = true → s.readCell .sp = F64.zero →
    vs.length ≤ 512 → vs.reverse[k]? = some v →
    ∃ t, execAll (vs.map (fun w => .push (.num w)) ++ List.replicate (k + 1) (.pop (.reg (.gpr 0 0)))) s = .next t ∧
      t.readCell (.x 0) = v ∧ t.readCell .sp = F64.ofNat (vs.length - (k + 1))

/-! ### Jumps, calls and branches -/

/-- The absolute jump and branches, taken (R900, R901, R910 and their own rules): the latch holds the target, and
nothing else changes. -/
def Obligations.AbsoluteJumpsTaken : Prop :=
  ∀ (s : State) (a b d e : ValOp) (x y z v : F64) (t : Nat),
    s.value a = .ok x → s.value b = .ok y → s.value d = .ok z → s.value e = .ok v → s.target v = .ok t →
    let eps := s.params.approxEps
    ∀ p ∈ [(Instr.j e, true), (.beq a b e, F64.eq x y), (.bne a b e, F64.ne x y), (.blt a b e, F64.lt x y),
        (.ble a b e, F64.le x y), (.bgt a b e, F64.gt x y), (.bge a b e, F64.ge x y), (.beqz a e, F64.eq x F64.zero),
        (.bnez a e, F64.ne x F64.zero), (.bltz a e, F64.lt x F64.zero), (.blez a e, F64.le x F64.zero),
        (.bgtz a e, F64.gt x F64.zero), (.bgez a e, F64.ge x F64.zero), (.bnan a e, F64.isNaN x),
        (.bap a b d e, approx eps x y z), (.bna a b d e, !approx eps x y z), (.bapz a b e, approxZero eps x y),
        (.bnaz a b e, !approxZero eps x y)],
      p.2 = true → exec p.1 s = .next { s with npc := some t }

/-- The linking jump and branches, taken (R902, R911 and their own rules): the latch holds the target and `ra` the line
after the call. -/
def Obligations.LinkingJumpsTaken : Prop :=
  ∀ (s : State) (a b d e : ValOp) (x y z v : F64) (t : Nat),
    s.value a = .ok x → s.value b = .ok y → s.value d = .ok z → s.value e = .ok v → s.target v = .ok t →
    let eps := s.params.approxEps
    ∀ p ∈ [(Instr.jal e, true), (.beqal a b e, F64.eq x y), (.bneal a b e, F64.ne x y), (.bltal a b e, F64.lt x y),
        (.bleal a b e, F64.le x y), (.bgtal a b e, F64.gt x y), (.bgeal a b e, F64.ge x y),
        (.beqzal a e, F64.eq x F64.zero), (.bnezal a e, F64.ne x F64.zero), (.bltzal a e, F64.lt x F64.zero),
        (.blezal a e, F64.le x F64.zero), (.bgtzal a e, F64.gt x F64.zero), (.bgezal a e, F64.ge x F64.zero),
        (.bapal a b d e, approx eps x y z), (.bnaal a b d e, !approx eps x y z), (.bapzal a b e, approxZero eps x y),
        (.bnazal a b e, !approxZero eps x y)],
      p.2 = true → Links (exec p.1 s) s t s.port

/-- The relative jump and branches, taken (R901, R912 and their own rules): the target is computed from the
instruction's own line and the offset. -/
def Obligations.RelativeJumpsTaken : Prop :=
  ∀ (s : State) (a b d e : ValOp) (x y z v : F64) (t : Nat),
    s.value a = .ok x → s.value b = .ok y → s.value d = .ok z → s.value e = .ok v →
    s.target (F64.add (F64.ofNat s.pc) v) = .ok t →
    let eps := s.params.approxEps
    ∀ p ∈ [(Instr.jr e, true), (.breq a b e, F64.eq x y), (.brne a b e, F64.ne x y), (.brlt a b e, F64.lt x y),
        (.brle a b e, F64.le x y), (.brgt a b e, F64.gt x y), (.brge a b e, F64.ge x y),
        (.breqz a e, F64.eq x F64.zero), (.brnez a e, F64.ne x F64.zero), (.brltz a e, F64.lt x F64.zero),
        (.brlez a e, F64.le x F64.zero), (.brgtz a e, F64.gt x F64.zero), (.brgez a e, F64.ge x F64.zero),
        (.brnan a e, F64.isNaN x), (.brap a b d e, approx eps x y z), (.brna a b d e, !approx eps x y z),
        (.brapz a b e, approxZero eps x y), (.brnaz a b e, !approxZero eps x y)],
      p.2 = true → exec p.1 s = .next { s with npc := some t }

/-- A branch that is not taken has no effect, and does not check its target (R900). -/
def Obligations.BranchesNotTakenDoNothing : Prop :=
  ∀ (s : State) (a b d e : ValOp) (x y z v : F64),
    s.value a = .ok x → s.value b = .ok y → s.value d = .ok z → s.value e = .ok v →
    let eps := s.params.approxEps
    ∀ p ∈ [(F64.eq x y, [Instr.beq a b e, .beqal a b e, .breq a b e]),
        (F64.ne x y, [.bne a b e, .bneal a b e, .brne a b e]), (F64.lt x y, [.blt a b e, .bltal a b e, .brlt a b e]),
        (F64.le x y, [.ble a b e, .bleal a b e, .brle a b e]), (F64.gt x y, [.bgt a b e, .bgtal a b e, .brgt a b e]),
        (F64.ge x y, [.bge a b e, .bgeal a b e, .brge a b e]),
        (F64.eq x F64.zero, [.beqz a e, .beqzal a e, .breqz a e]),
        (F64.ne x F64.zero, [.bnez a e, .bnezal a e, .brnez a e]),
        (F64.lt x F64.zero, [.bltz a e, .bltzal a e, .brltz a e]),
        (F64.le x F64.zero, [.blez a e, .blezal a e, .brlez a e]),
        (F64.gt x F64.zero, [.bgtz a e, .bgtzal a e, .brgtz a e]),
        (F64.ge x F64.zero, [.bgez a e, .bgezal a e, .brgez a e]), (F64.isNaN x, [.bnan a e, .brnan a e]),
        (approx eps x y z, [.bap a b d e, .bapal a b d e, .brap a b d e]),
        (!approx eps x y z, [.bna a b d e, .bnaal a b d e, .brna a b d e]),
        (approxZero eps x y, [.bapz a b e, .bapzal a b e, .brapz a b e]),
        (!approxZero eps x y, [.bnaz a b e, .bnazal a b e, .brnaz a b e])],
      p.1 = false → ∀ i ∈ p.2, exec i s = .next s

/-- Tests of a pin (R726, R727, R970 to R975): they use one fresh answer of the host for the pin, and an unbound pin is
no error. -/
def Obligations.PinTestsUseOneAnswer : Prop :=
  ∀ (s : State) (d : PinOp) (p : Pin) (h : Option Handle) (q : Port), s.pin d = .ok p → s.port.askPin p = (h, q) →
    (∀ (r : RegOp) (c : Cell), s.dest r = .ok c →
      WritesWithPort (exec (.sdse r d) s) s c (if h ≠ none then F64.one else F64.zero) q ∧
      WritesWithPort (exec (.sdns r d) s) s c (if h = none then F64.one else F64.zero) q) ∧
    (∀ (a : ValOp) (v : F64), s.value a = .ok v →
      (h = none → ∀ i ∈ [Instr.bdse d a, .bdseal d a, .brdse d a], exec i s = .next { s with port := q }) ∧
      (h ≠ none → ∀ i ∈ [Instr.bdns d a, .bdnsal d a, .brdns d a], exec i s = .next { s with port := q }) ∧
      (∀ t, s.target v = .ok t →
        (h ≠ none → exec (.bdse d a) s = .next { s with npc := some t, port := q } ∧ Links (exec (.bdseal d a) s) s t q) ∧
        (h = none → exec (.bdns d a) s = .next { s with npc := some t, port := q } ∧ Links (exec (.bdnsal d a) s) s t q)) ∧
      (∀ t, s.target (F64.add (F64.ofNat s.pc) v) = .ok t →
        (h ≠ none → exec (.brdse d a) s = .next { s with npc := some t, port := q }) ∧
        (h = none → exec (.brdns d a) s = .next { s with npc := some t, port := q })))

/-- Jump targets (R901): the truncated value, if it is a line of the program; otherwise, and for NaN and the infinities,
InvalidProgramCounter, which every jump, call and branch raises when taken, before a link form has written `ra` (R902,
R911); a branch on a pin has then asked the host for its pin. -/
def Obligations.JumpTargetsAreChecked : Prop :=
  (∀ (s : State) (records : List Record), s.program = some records → s.len = records.length) ∧
  (∀ s : State, s.program = none → s.len = 0) ∧
  (∀ (s : State) (v : F64),
    (F64.truncInt v = none → s.target v = .error (.raised .invalidProgramCounter)) ∧
    (∀ t : Int, F64.truncInt v = some t →
      (t < 0 ∨ (s.len : Int) ≤ t → s.target v = .error (.raised .invalidProgramCounter)) ∧
      (0 ≤ t → t < s.len → s.target v = .ok t.toNat))) ∧
  (∀ (s : State) (a b d e : ValOp) (x y z v : F64),
    s.value a = .ok x → s.value b = .ok y → s.value d = .ok z → s.value e = .ok v →
    let eps := s.params.approxEps
    (∀ err, s.target v = .error err →
      ∀ p ∈ [(true, [Instr.j e, .jal e]), (F64.eq x y, [.beq a b e, .beqal a b e]),
          (F64.ne x y, [.bne a b e, .bneal a b e]), (F64.lt x y, [.blt a b e, .bltal a b e]),
          (F64.le x y, [.ble a b e, .bleal a b e]), (F64.gt x y, [.bgt a b e, .bgtal a b e]),
          (F64.ge x y, [.bge a b e, .bgeal a b e]), (F64.eq x F64.zero, [.beqz a e, .beqzal a e]),
          (F64.ne x F64.zero, [.bnez a e, .bnezal a e]), (F64.lt x F64.zero, [.bltz a e, .bltzal a e]),
          (F64.le x F64.zero, [.blez a e, .blezal a e]), (F64.gt x F64.zero, [.bgtz a e, .bgtzal a e]),
          (F64.ge x F64.zero, [.bgez a e, .bgezal a e]), (F64.isNaN x, [.bnan a e]),
          (approx eps x y z, [.bap a b d e, .bapal a b d e]), (!approx eps x y z, [.bna a b d e, .bnaal a b d e]),
          (approxZero eps x y, [.bapz a b e, .bapzal a b e]), (!approxZero eps x y, [.bnaz a b e, .bnazal a b e])],
        p.1 = true → ∀ i ∈ p.2, Raises (exec i s) s .invalidProgramCounter s.port) ∧
    (∀ err, s.target (F64.add (F64.ofNat s.pc) v) = .error err →
      ∀ p ∈ [(Instr.jr e, true), (.breq a b e, F64.eq x y), (.brne a b e, F64.ne x y), (.brlt a b e, F64.lt x y),
          (.brle a b e, F64.le x y), (.brgt a b e, F64.gt x y), (.brge a b e, F64.ge x y),
          (.breqz a e, F64.eq x F64.zero), (.brnez a e, F64.ne x F64.zero), (.brltz a e, F64.lt x F64.zero),
          (.brlez a e, F64.le x F64.zero), (.brgtz a e, F64.gt x F64.zero), (.brgez a e, F64.ge x F64.zero),
          (.brnan a e, F64.isNaN x), (.brap a b d e, approx eps x y z), (.brna a b d e, !approx eps x y z),
          (.brapz a b e, approxZero eps x y), (.brnaz a b e, !approxZero eps x y)],
        p.2 = true → Raises (exec p.1 s) s .invalidProgramCounter s.port)) ∧
  (∀ (s : State) (d : PinOp) (p : Pin) (h : Option Handle) (q : Port) (e : ValOp) (v : F64),
    s.pin d = .ok p → s.port.askPin p = (h, q) → s.value e = .ok v →
    (∀ err, s.target v = .error err →
      ∀ i ∈ (if h = none then [Instr.bdns d e, .bdnsal d e] else [.bdse d e, .bdseal d e]),
        Raises (exec i s) s .invalidProgramCounter q) ∧
    (∀ err, s.target (F64.add (F64.ofNat s.pc) v) = .error err →
      Raises (exec (if h = none then .brdns d e else .brdse d e) s) s .invalidProgramCounter q))

/-! ### System instructions -/

/-- The empty line, `label`, `yield`, `sleep` and `hcf` (R1000 to R1003, R1012). -/
def Obligations.SystemInstructions : Prop :=
  ∀ s : State,
    exec .nop s = .next s ∧
    (∀ d n, exec (.label d n) s = .next s) ∧
    exec .yield s = .next { s with status := .yielded } ∧
    (∀ a v, s.value a = .ok v →
      let wake := F64.add s.now (if F64.isNaN v = true ∨ F64.lt v F64.zero = true then F64.zero else v)
      exec (.sleep a) s = .next { s with status := .sleeping wake, resume := some wake }) ∧
    (∀ a e, s.value a = .error (.raised e) → Raises (exec (.sleep a) s) s e s.port) ∧
    Raises (exec .hcf s) s .halt s.port

/-- `alias` (R1010) binds or rebinds one name to the target itself; `define` (R1011) binds a name once; neither changes
anything else. -/
def Obligations.SymbolBinding : Prop :=
  ∀ s : State,
    (∀ n t, ∃ u, exec (.aliasOp n t) s = .next u ∧ lookupIn u.aliases n = some t ∧
      (∀ m, m ≠ n → lookupIn u.aliases m = lookupIn s.aliases m) ∧ { u with aliases := s.aliases } = s) ∧
    (∀ n v, ∃ u, exec (.define n v) s = .next u ∧
      lookupIn u.defines n = some ((lookupIn s.defines n).getD v) ∧
      (∀ m, m ≠ n → lookupIn u.defines m = lookupIn s.defines m) ∧ { u with defines := s.defines } = s)

/-! ### The step, the tick and the host's commands -/

/-- A step runs the decoded instruction: where the line at `pc` of the loaded program decodes to `i`, the step is `exec`
of `i` on the state with the latch cleared and the step counted, followed by the sequencer. -/
def Obligations.StepRunsTheDecodedLine : Prop :=
  ∀ (s : State) (source : List Byte) (records : List Record) (labels : LabelTable) (line : List Byte) (i : Instr),
    parseProgram s.params source = .ok (records, labels) → s.program = some records →
    (Lexer.splitLines source)[s.pc]? = some line → decode s.params.keyNames line = .ok i →
    s.inTick = true → s.ic ≠ s.params.tickBudget →
    (∀ t, exec i { s with npc := none, ic := s.ic + 1 } = .next t → Sys2Proof.Machine.step s = .next t.sequence) ∧
    (∀ f, exec i { s with npc := none, ic := s.ic + 1 } = .fault f → Sys2Proof.Machine.step s = .fault f) ∧
    (∀ r, exec i { s with npc := none, ic := s.ic + 1 } = .refused r → Sys2Proof.Machine.step s = .refused r)

/-- `step()` (R150, R151): fetch, execute, and then the program counter takes the latch or the next line, or stays after
an error; a fetch outside the program is fatal or ends the tick quietly. That the tick ends (`inTick` false, the model's
form, log 17) when the status is no longer Ready is R1200 (5). What the latch holds after a fetch outside the program is
left open (log 19). -/
def Obligations.StepFetchesExecutesSequences : Prop :=
  ∀ (s : State) (records : List Record), s.program = some records → s.inTick = true →
    s.ic ≠ s.params.tickBudget → s.crashed = false →
    (∀ r t, records[s.pc]? = some r → exec r.instr { s with npc := none, ic := s.ic + 1 } = .next t →
      (t.crashed = true → Sys2Proof.Machine.step s = .next { t with pc := s.pc, inTick := false }) ∧
      (t.crashed = false → t.status = .ready →
        Sys2Proof.Machine.step s = .next { t with pc := t.npc.getD (s.pc + 1) }) ∧
      (t.crashed = false → t.status ≠ .ready →
        Sys2Proof.Machine.step s = .next { t with pc := t.npc.getD (s.pc + 1), inTick := false })) ∧
    (records.length ≤ s.pc →
      (s.params.endOfProgram = .fault →
        ∃ n, Sys2Proof.Machine.step s = .next { s with
          npc := n
          ic := s.ic + 1
          status := .crashed
          crashed := true
          error := some ⟨.invalidProgramCounter, 22, s.pc⟩
          resume := none
          inTick := false }) ∧
      (s.params.endOfProgram = .ends →
        ∃ n, Sys2Proof.Machine.step s = .next { s with npc := n, ic := s.ic + 1, status := .ready, inTick := false }))

/-- `run_tick(now)` (R1200): nothing without a program, crashed, or asleep before its time; otherwise a tick begins with
status Ready, no resume time and a fresh count; and the budget's end suspends the core without an error. A core asleep
until `+Inf` wakes at `now = +Inf`, as the comparison of R1200 (2) says (log 37). -/
def Obligations.TickBeginsAndStops : Prop :=
  (∀ (s : State) (now : F64) (rest : List Command), s.inTick = false → s.commands = .runTick now :: rest →
    (s.status = .noProgram ∨ s.status = .crashed ∨ (∃ t, s.status = .sleeping t ∧ F64.lt now t = true) →
      Sys2Proof.Machine.step s = .next { s with commands := rest }) ∧
    (s.status = .ready ∨ s.status = .yielded ∨ (∃ t, s.status = .sleeping t ∧ F64.ge now t = true) →
      Sys2Proof.Machine.step s = .next { s with
        commands := rest
        status := .ready
        resume := none
        ic := 0
        now := now
        inTick := true })) ∧
  (∀ s : State, s.inTick = true → s.ic = s.params.tickBudget →
    Sys2Proof.Machine.step s = .next { s with status := .yielded, inTick := false })

/-- A tick ends within its budget (R1201): from any state of a tick that meets the invariant, and whose program's names
suit their slots, at most `TICK_BUDGET - ic` instructions and the soft stop lead to a state outside the tick. -/
def Obligations.TickEndsWithinBudget : Prop :=
  ∀ s : State, s.Inv → s.namesOk → s.inTick = true →
    ∃ k t, k ≤ s.params.tickBudget - s.ic + 1 ∧ runSteps k s = .next t ∧ t.inTick = false

/-- `reset()` (R1210): registers, stack, tables, counters, error and status are cleared, and program, labels and pin
bindings kept. -/
def Obligations.ResetClearsTheCore : Prop :=
  ∀ (s : State) (rest : List Command), s.inTick = false → s.commands = .reset :: rest →
    ∃ t, Sys2Proof.Machine.step s = .next t ∧
      (∀ c, t.readCell c = F64.zero) ∧ t.pc = 0 ∧ (∀ a, t.stack.read a = F64.zero) ∧ t.aliases = [] ∧ t.defines = [] ∧
      t.ic = 0 ∧ t.npc = none ∧ t.error = none ∧ t.crashed = false ∧ t.resume = none ∧
      (s.program ≠ none → t.status = .ready) ∧ (s.program = none → t.status = .noProgram) ∧
      t.program = s.program ∧ t.labels = s.labels ∧ t.port.pins = s.port.pins

/-- The power-on state (R1212): that of `reset()` with no program, and no pin bound. -/
def Obligations.PowerOnState : Prop :=
  State.reset.status = .noProgram ∧ State.reset.program = none ∧
  (∀ c, State.reset.readCell c = F64.zero) ∧ (∀ a, State.reset.stack.read a = F64.zero) ∧
  State.reset.aliases = [] ∧ State.reset.defines = [] ∧ State.reset.labels = [] ∧
  State.reset.pc = 0 ∧ State.reset.npc = none ∧ State.reset.ic = 0 ∧ State.reset.error = none ∧
  State.reset.crashed = false ∧ State.reset.resume = none ∧
  State.reset.port.pins.db = none ∧ (∀ i : Fin 6, State.reset.port.pins.d.get i = none) ∧
  State.reset.restart = State.reset

/-- Only `reset`, `load` and the restore of a snapshot leave the crashed state, and `run_tick` then changes nothing
(R1111, R1214). -/
def Obligations.CrashedCoreStaysCrashed : Prop :=
  ∀ s : State, s.status = .crashed → s.inTick = false →
    (∀ now rest, s.commands = .runTick now :: rest → Sys2Proof.Machine.step s = .next { s with commands := rest }) ∧
    (∀ t, Sys2Proof.Machine.step s = .next t → t.status ≠ .crashed →
      ∃ c rest, s.commands = c :: rest ∧
        (c = .reset ∨ (∃ source, c = .load source) ∨ (∃ snap, c = .restore snap)))

/-- A persisted snapshot (R146, R1214), restored onto a core with the same program, gives back the registers, stack,
program counter and tables, with status Ready and no error. -/
def Obligations.SnapshotRestoresTheCore : Prop :=
  ∀ (s u : State) (program : List Record), s.program = some program → u.program = some program → s.Inv → s.namesOk →
    u.restore s.snapshot =
      { u with
        x := s.x
        sp := s.sp
        ra := s.ra
        pc := s.pc
        stack := s.stack
        aliases := s.aliases
        defines := s.defines
        status := .ready
        crashed := false
        error := none
        ic := 0
        resume := none }

/-! ### Whole-machine rules -/

/-- Whatever the instruction, it is not refused, and where it answers a next state it has written none of what an
instruction may not write: parameters, program, labels, program counter, counts, time, commands, pin bindings, and no
call already made is undone (R131, R134, R135, R143, R152). -/
def Obligations.InstructionsWriteNothingElse : Prop :=
  ∀ (i : Instr) (s : State),
    (∀ r, exec i s ≠ .refused r) ∧ (∀ t, exec i s = .next t → Undisturbed s t)

/-- The program store and the label table are written only by a load (R244, R134, R135), which the model takes between
ticks (log 17). -/
def Obligations.ProgramIsWrittenOnlyByLoad : Prop :=
  ∀ s t : State, Sys2Proof.Machine.step s = .next t →
    (t.program = s.program ∧ t.labels = s.labels) ∨
    (s.inTick = false ∧ ∃ source rest, s.commands = .load source :: rest)

/-- Fatal entry (R1110): an instruction that leaves a running core crashed has raised an error: nothing of its own is
written but the device calls made, and the tick ends with the program counter on its line; an instruction that does
not is no error. The record holds the error's code, which is that of the table of R1101. -/
def Obligations.FatalEntryWritesNothingElse : Prop :=
  (∀ e : RunError, e.code = (match e with
    | .stackOverflow => 16
    | .stackUnderflow => 17
    | .invalidRegisterIndex => 18
    | .invalidIndirectionDepth => 19
    | .deviceNotFound => 20
    | .invalidLogicType => 21
    | .invalidProgramCounter => 22
    | .permissionDenied => 23
    | .unresolvedName => 24
    | .halt => 25)) ∧
  ∀ (i : Instr) (s t : State), s.crashed = false → exec i s = .next t →
    (t.crashed = true → ∃ e p, Raises (exec i s) s e p ∧ Port.Grows s.port p) ∧
    (t.crashed = false → t.error = s.error) ∧
    (∀ (u : State) (r : Record) (e : RunError) (p : Port), s = { u with npc := none, ic := u.ic + 1 } → r.instr = i →
      u.fetch = some r → u.inTick = true → u.ic ≠ u.params.tickBudget → Raises (exec i s) s e p →
      Sys2Proof.Machine.step u = .next { u with
        npc := none
        ic := u.ic + 1
        port := p
        status := .crashed
        crashed := true
        error := some ⟨e, e.code, u.pc⟩
        resume := none
        inTick := false })

/-- A program whose names suit their slots never makes the machine stop, and every step keeps that; it is so of every
program a load accepts (R333). -/
def Obligations.LoadedNamesNeverStopTheMachine : Prop :=
  ∀ s : State, s.namesOk →
    (∀ f, Sys2Proof.Machine.step s ≠ .fault f) ∧ (∀ t, Sys2Proof.Machine.step s = .next t → t.namesOk)

/-- The invariant holds at power-on, and so does that on the names. -/
def Obligations.InvariantAtReset : Prop :=
  State.reset.Inv ∧ State.reset.namesOk

/-- Every step keeps the invariant: flags, resume time and error record agree with the status, the stack memory stays
canonical, the tables stay maps, and no tick overruns its budget (R140 to R144, R201, R1201). -/
def Obligations.InvariantIsKept : Prop :=
  ∀ s t : State, s.Inv → Sys2Proof.Machine.step s = .next t → t.Inv
end

