-- ==== Sys2Proof/Laws/State.lean ====
section
/-! SUPPORT. One lemma for each field of each named change of the state, so that no proof unfolds a record update. -/

namespace Sys2Proof.Machine

/-! ### `State.fatal` -/

@[simp] theorem State.fatal_params (s : State) (e : RunError) : (s.fatal e).params = s.params := rfl
@[simp] theorem State.fatal_x (s : State) (e : RunError) : (s.fatal e).x = s.x := rfl
@[simp] theorem State.fatal_sp (s : State) (e : RunError) : (s.fatal e).sp = s.sp := rfl
@[simp] theorem State.fatal_ra (s : State) (e : RunError) : (s.fatal e).ra = s.ra := rfl
@[simp] theorem State.fatal_pc (s : State) (e : RunError) : (s.fatal e).pc = s.pc := rfl
@[simp] theorem State.fatal_npc (s : State) (e : RunError) : (s.fatal e).npc = s.npc := rfl
@[simp] theorem State.fatal_stack (s : State) (e : RunError) : (s.fatal e).stack = s.stack := rfl
@[simp] theorem State.fatal_aliases (s : State) (e : RunError) : (s.fatal e).aliases = s.aliases := rfl
@[simp] theorem State.fatal_defines (s : State) (e : RunError) : (s.fatal e).defines = s.defines := rfl
@[simp] theorem State.fatal_labels (s : State) (e : RunError) : (s.fatal e).labels = s.labels := rfl
@[simp] theorem State.fatal_program (s : State) (e : RunError) : (s.fatal e).program = s.program := rfl
@[simp] theorem State.fatal_status (s : State) (e : RunError) : (s.fatal e).status = .crashed := rfl
@[simp] theorem State.fatal_crashed (s : State) (e : RunError) : (s.fatal e).crashed = true := rfl
@[simp] theorem State.fatal_error (s : State) (e : RunError) : (s.fatal e).error = some ⟨e, e.code, s.pc⟩ := rfl
@[simp] theorem State.fatal_ic (s : State) (e : RunError) : (s.fatal e).ic = s.ic := rfl
@[simp] theorem State.fatal_resume (s : State) (e : RunError) : (s.fatal e).resume = none := rfl
@[simp] theorem State.fatal_now (s : State) (e : RunError) : (s.fatal e).now = s.now := rfl
@[simp] theorem State.fatal_loadError (s : State) (e : RunError) : (s.fatal e).loadError = s.loadError := rfl
@[simp] theorem State.fatal_inTick (s : State) (e : RunError) : (s.fatal e).inTick = s.inTick := rfl
@[simp] theorem State.fatal_commands (s : State) (e : RunError) : (s.fatal e).commands = s.commands := rfl
@[simp] theorem State.fatal_port (s : State) (e : RunError) : (s.fatal e).port = s.port := rfl

/-! ### `State.restart` -/

@[simp] theorem State.restart_params (s : State) : (s.restart).params = s.params := rfl
@[simp] theorem State.restart_x (s : State) : (s.restart).x = Vector.replicate 18 F64.zero := rfl
@[simp] theorem State.restart_sp (s : State) : (s.restart).sp = F64.zero := rfl
@[simp] theorem State.restart_ra (s : State) : (s.restart).ra = F64.zero := rfl
@[simp] theorem State.restart_pc (s : State) : (s.restart).pc = 0 := rfl
@[simp] theorem State.restart_npc (s : State) : (s.restart).npc = none := rfl
@[simp] theorem State.restart_stack (s : State) : (s.restart).stack = [] := rfl
@[simp] theorem State.restart_aliases (s : State) : (s.restart).aliases = [] := rfl
@[simp] theorem State.restart_defines (s : State) : (s.restart).defines = [] := rfl
@[simp] theorem State.restart_labels (s : State) : (s.restart).labels = s.labels := rfl
@[simp] theorem State.restart_program (s : State) : (s.restart).program = s.program := rfl
@[simp] theorem State.restart_status (s : State) : (s.restart).status = if s.program.isSome then .ready else .noProgram := rfl
@[simp] theorem State.restart_crashed (s : State) : (s.restart).crashed = false := rfl
@[simp] theorem State.restart_error (s : State) : (s.restart).error = none := rfl
@[simp] theorem State.restart_ic (s : State) : (s.restart).ic = 0 := rfl
@[simp] theorem State.restart_resume (s : State) : (s.restart).resume = none := rfl
@[simp] theorem State.restart_now (s : State) : (s.restart).now = s.now := rfl
@[simp] theorem State.restart_loadError (s : State) : (s.restart).loadError = s.loadError := rfl
@[simp] theorem State.restart_inTick (s : State) : (s.restart).inTick = false := rfl
@[simp] theorem State.restart_commands (s : State) : (s.restart).commands = s.commands := rfl
@[simp] theorem State.restart_port (s : State) : (s.restart).port = s.port := rfl

/-! ### `State.begin` -/

@[simp] theorem State.begin_params (s : State) : (s.begin).params = s.params := rfl
@[simp] theorem State.begin_x (s : State) : (s.begin).x = s.x := rfl
@[simp] theorem State.begin_sp (s : State) : (s.begin).sp = s.sp := rfl
@[simp] theorem State.begin_ra (s : State) : (s.begin).ra = s.ra := rfl
@[simp] theorem State.begin_pc (s : State) : (s.begin).pc = s.pc := rfl
@[simp] theorem State.begin_npc (s : State) : (s.begin).npc = none := rfl
@[simp] theorem State.begin_stack (s : State) : (s.begin).stack = s.stack := rfl
@[simp] theorem State.begin_aliases (s : State) : (s.begin).aliases = s.aliases := rfl
@[simp] theorem State.begin_defines (s : State) : (s.begin).defines = s.defines := rfl
@[simp] theorem State.begin_labels (s : State) : (s.begin).labels = s.labels := rfl
@[simp] theorem State.begin_program (s : State) : (s.begin).program = s.program := rfl
@[simp] theorem State.begin_status (s : State) : (s.begin).status = s.status := rfl
@[simp] theorem State.begin_crashed (s : State) : (s.begin).crashed = s.crashed := rfl
@[simp] theorem State.begin_error (s : State) : (s.begin).error = s.error := rfl
@[simp] theorem State.begin_ic (s : State) : (s.begin).ic = s.ic + 1 := rfl
@[simp] theorem State.begin_resume (s : State) : (s.begin).resume = s.resume := rfl
@[simp] theorem State.begin_now (s : State) : (s.begin).now = s.now := rfl
@[simp] theorem State.begin_loadError (s : State) : (s.begin).loadError = s.loadError := rfl
@[simp] theorem State.begin_inTick (s : State) : (s.begin).inTick = s.inTick := rfl
@[simp] theorem State.begin_commands (s : State) : (s.begin).commands = s.commands := rfl
@[simp] theorem State.begin_port (s : State) : (s.begin).port = s.port := rfl

/-! ### `State.leaveTick` -/

@[simp] theorem State.leaveTick_params (s : State) : (s.leaveTick).params = s.params := rfl
@[simp] theorem State.leaveTick_x (s : State) : (s.leaveTick).x = s.x := rfl
@[simp] theorem State.leaveTick_sp (s : State) : (s.leaveTick).sp = s.sp := rfl
@[simp] theorem State.leaveTick_ra (s : State) : (s.leaveTick).ra = s.ra := rfl
@[simp] theorem State.leaveTick_pc (s : State) : (s.leaveTick).pc = s.pc := rfl
@[simp] theorem State.leaveTick_npc (s : State) : (s.leaveTick).npc = s.npc := rfl
@[simp] theorem State.leaveTick_stack (s : State) : (s.leaveTick).stack = s.stack := rfl
@[simp] theorem State.leaveTick_aliases (s : State) : (s.leaveTick).aliases = s.aliases := rfl
@[simp] theorem State.leaveTick_defines (s : State) : (s.leaveTick).defines = s.defines := rfl
@[simp] theorem State.leaveTick_labels (s : State) : (s.leaveTick).labels = s.labels := rfl
@[simp] theorem State.leaveTick_program (s : State) : (s.leaveTick).program = s.program := rfl
@[simp] theorem State.leaveTick_status (s : State) : (s.leaveTick).status = s.status := rfl
@[simp] theorem State.leaveTick_crashed (s : State) : (s.leaveTick).crashed = s.crashed := rfl
@[simp] theorem State.leaveTick_error (s : State) : (s.leaveTick).error = s.error := rfl
@[simp] theorem State.leaveTick_ic (s : State) : (s.leaveTick).ic = s.ic := rfl
@[simp] theorem State.leaveTick_resume (s : State) : (s.leaveTick).resume = s.resume := rfl
@[simp] theorem State.leaveTick_now (s : State) : (s.leaveTick).now = s.now := rfl
@[simp] theorem State.leaveTick_loadError (s : State) : (s.leaveTick).loadError = s.loadError := rfl
@[simp] theorem State.leaveTick_inTick (s : State) : (s.leaveTick).inTick = false := rfl
@[simp] theorem State.leaveTick_commands (s : State) : (s.leaveTick).commands = s.commands := rfl
@[simp] theorem State.leaveTick_port (s : State) : (s.leaveTick).port = s.port := rfl

/-! ### `State.softStop` -/

@[simp] theorem State.softStop_params (s : State) : (s.softStop).params = s.params := rfl
@[simp] theorem State.softStop_x (s : State) : (s.softStop).x = s.x := rfl
@[simp] theorem State.softStop_sp (s : State) : (s.softStop).sp = s.sp := rfl
@[simp] theorem State.softStop_ra (s : State) : (s.softStop).ra = s.ra := rfl
@[simp] theorem State.softStop_pc (s : State) : (s.softStop).pc = s.pc := rfl
@[simp] theorem State.softStop_npc (s : State) : (s.softStop).npc = s.npc := rfl
@[simp] theorem State.softStop_stack (s : State) : (s.softStop).stack = s.stack := rfl
@[simp] theorem State.softStop_aliases (s : State) : (s.softStop).aliases = s.aliases := rfl
@[simp] theorem State.softStop_defines (s : State) : (s.softStop).defines = s.defines := rfl
@[simp] theorem State.softStop_labels (s : State) : (s.softStop).labels = s.labels := rfl
@[simp] theorem State.softStop_program (s : State) : (s.softStop).program = s.program := rfl
@[simp] theorem State.softStop_status (s : State) : (s.softStop).status = .yielded := rfl
@[simp] theorem State.softStop_crashed (s : State) : (s.softStop).crashed = s.crashed := rfl
@[simp] theorem State.softStop_error (s : State) : (s.softStop).error = s.error := rfl
@[simp] theorem State.softStop_ic (s : State) : (s.softStop).ic = s.ic := rfl
@[simp] theorem State.softStop_resume (s : State) : (s.softStop).resume = s.resume := rfl
@[simp] theorem State.softStop_now (s : State) : (s.softStop).now = s.now := rfl
@[simp] theorem State.softStop_loadError (s : State) : (s.softStop).loadError = s.loadError := rfl
@[simp] theorem State.softStop_inTick (s : State) : (s.softStop).inTick = false := rfl
@[simp] theorem State.softStop_commands (s : State) : (s.softStop).commands = s.commands := rfl
@[simp] theorem State.softStop_port (s : State) : (s.softStop).port = s.port := rfl

/-! ### `State.startTick` -/

@[simp] theorem State.startTick_params (s : State) (t : F64) : (s.startTick t).params = s.params := rfl
@[simp] theorem State.startTick_x (s : State) (t : F64) : (s.startTick t).x = s.x := rfl
@[simp] theorem State.startTick_sp (s : State) (t : F64) : (s.startTick t).sp = s.sp := rfl
@[simp] theorem State.startTick_ra (s : State) (t : F64) : (s.startTick t).ra = s.ra := rfl
@[simp] theorem State.startTick_pc (s : State) (t : F64) : (s.startTick t).pc = s.pc := rfl
@[simp] theorem State.startTick_npc (s : State) (t : F64) : (s.startTick t).npc = s.npc := rfl
@[simp] theorem State.startTick_stack (s : State) (t : F64) : (s.startTick t).stack = s.stack := rfl
@[simp] theorem State.startTick_aliases (s : State) (t : F64) : (s.startTick t).aliases = s.aliases := rfl
@[simp] theorem State.startTick_defines (s : State) (t : F64) : (s.startTick t).defines = s.defines := rfl
@[simp] theorem State.startTick_labels (s : State) (t : F64) : (s.startTick t).labels = s.labels := rfl
@[simp] theorem State.startTick_program (s : State) (t : F64) : (s.startTick t).program = s.program := rfl
@[simp] theorem State.startTick_status (s : State) (t : F64) : (s.startTick t).status = .ready := rfl
@[simp] theorem State.startTick_crashed (s : State) (t : F64) : (s.startTick t).crashed = s.crashed := rfl
@[simp] theorem State.startTick_error (s : State) (t : F64) : (s.startTick t).error = s.error := rfl
@[simp] theorem State.startTick_ic (s : State) (t : F64) : (s.startTick t).ic = 0 := rfl
@[simp] theorem State.startTick_resume (s : State) (t : F64) : (s.startTick t).resume = none := rfl
@[simp] theorem State.startTick_now (s : State) (t : F64) : (s.startTick t).now = t := rfl
@[simp] theorem State.startTick_loadError (s : State) (t : F64) : (s.startTick t).loadError = s.loadError := rfl
@[simp] theorem State.startTick_inTick (s : State) (t : F64) : (s.startTick t).inTick = true := rfl
@[simp] theorem State.startTick_commands (s : State) (t : F64) : (s.startTick t).commands = s.commands := rfl
@[simp] theorem State.startTick_port (s : State) (t : F64) : (s.startTick t).port = s.port := rfl

/-! ### `State.sleepFor` -/

@[simp] theorem State.sleepFor_params (s : State) (d : F64) : (s.sleepFor d).params = s.params := rfl
@[simp] theorem State.sleepFor_x (s : State) (d : F64) : (s.sleepFor d).x = s.x := rfl
@[simp] theorem State.sleepFor_sp (s : State) (d : F64) : (s.sleepFor d).sp = s.sp := rfl
@[simp] theorem State.sleepFor_ra (s : State) (d : F64) : (s.sleepFor d).ra = s.ra := rfl
@[simp] theorem State.sleepFor_pc (s : State) (d : F64) : (s.sleepFor d).pc = s.pc := rfl
@[simp] theorem State.sleepFor_npc (s : State) (d : F64) : (s.sleepFor d).npc = s.npc := rfl
@[simp] theorem State.sleepFor_stack (s : State) (d : F64) : (s.sleepFor d).stack = s.stack := rfl
@[simp] theorem State.sleepFor_aliases (s : State) (d : F64) : (s.sleepFor d).aliases = s.aliases := rfl
@[simp] theorem State.sleepFor_defines (s : State) (d : F64) : (s.sleepFor d).defines = s.defines := rfl
@[simp] theorem State.sleepFor_labels (s : State) (d : F64) : (s.sleepFor d).labels = s.labels := rfl
@[simp] theorem State.sleepFor_program (s : State) (d : F64) : (s.sleepFor d).program = s.program := rfl
@[simp] theorem State.sleepFor_status (s : State) (d : F64) : (s.sleepFor d).status = .sleeping (F64.add s.now d) := rfl
@[simp] theorem State.sleepFor_crashed (s : State) (d : F64) : (s.sleepFor d).crashed = s.crashed := rfl
@[simp] theorem State.sleepFor_error (s : State) (d : F64) : (s.sleepFor d).error = s.error := rfl
@[simp] theorem State.sleepFor_ic (s : State) (d : F64) : (s.sleepFor d).ic = s.ic := rfl
@[simp] theorem State.sleepFor_resume (s : State) (d : F64) : (s.sleepFor d).resume = some (F64.add s.now d) := rfl
@[simp] theorem State.sleepFor_now (s : State) (d : F64) : (s.sleepFor d).now = s.now := rfl
@[simp] theorem State.sleepFor_loadError (s : State) (d : F64) : (s.sleepFor d).loadError = s.loadError := rfl
@[simp] theorem State.sleepFor_inTick (s : State) (d : F64) : (s.sleepFor d).inTick = s.inTick := rfl
@[simp] theorem State.sleepFor_commands (s : State) (d : F64) : (s.sleepFor d).commands = s.commands := rfl
@[simp] theorem State.sleepFor_port (s : State) (d : F64) : (s.sleepFor d).port = s.port := rfl

/-! ### `State.writeCell` -/

@[simp] theorem State.writeCell_params (s : State) (c : Cell) (v : F64) : (s.writeCell c v).params = s.params := by
  unfold State.writeCell; split <;> rfl
@[simp] theorem State.writeCell_pc (s : State) (c : Cell) (v : F64) : (s.writeCell c v).pc = s.pc := by
  unfold State.writeCell; split <;> rfl
@[simp] theorem State.writeCell_npc (s : State) (c : Cell) (v : F64) : (s.writeCell c v).npc = s.npc := by
  unfold State.writeCell; split <;> rfl
@[simp] theorem State.writeCell_stack (s : State) (c : Cell) (v : F64) : (s.writeCell c v).stack = s.stack := by
  unfold State.writeCell; split <;> rfl
@[simp] theorem State.writeCell_aliases (s : State) (c : Cell) (v : F64) : (s.writeCell c v).aliases = s.aliases := by
  unfold State.writeCell; split <;> rfl
@[simp] theorem State.writeCell_defines (s : State) (c : Cell) (v : F64) : (s.writeCell c v).defines = s.defines := by
  unfold State.writeCell; split <;> rfl
@[simp] theorem State.writeCell_labels (s : State) (c : Cell) (v : F64) : (s.writeCell c v).labels = s.labels := by
  unfold State.writeCell; split <;> rfl
@[simp] theorem State.writeCell_program (s : State) (c : Cell) (v : F64) : (s.writeCell c v).program = s.program := by
  unfold State.writeCell; split <;> rfl
@[simp] theorem State.writeCell_status (s : State) (c : Cell) (v : F64) : (s.writeCell c v).status = s.status := by
  unfold State.writeCell; split <;> rfl
@[simp] theorem State.writeCell_crashed (s : State) (c : Cell) (v : F64) : (s.writeCell c v).crashed = s.crashed := by
  unfold State.writeCell; split <;> rfl
@[simp] theorem State.writeCell_error (s : State) (c : Cell) (v : F64) : (s.writeCell c v).error = s.error := by
  unfold State.writeCell; split <;> rfl
@[simp] theorem State.writeCell_ic (s : State) (c : Cell) (v : F64) : (s.writeCell c v).ic = s.ic := by
  unfold State.writeCell; split <;> rfl
@[simp] theorem State.writeCell_resume (s : State) (c : Cell) (v : F64) : (s.writeCell c v).resume = s.resume := by
  unfold State.writeCell; split <;> rfl
@[simp] theorem State.writeCell_now (s : State) (c : Cell) (v : F64) : (s.writeCell c v).now = s.now := by
  unfold State.writeCell; split <;> rfl
@[simp] theorem State.writeCell_loadError (s : State) (c : Cell) (v : F64) : (s.writeCell c v).loadError = s.loadError := by
  unfold State.writeCell; split <;> rfl
@[simp] theorem State.writeCell_inTick (s : State) (c : Cell) (v : F64) : (s.writeCell c v).inTick = s.inTick := by
  unfold State.writeCell; split <;> rfl
@[simp] theorem State.writeCell_commands (s : State) (c : Cell) (v : F64) : (s.writeCell c v).commands = s.commands := by
  unfold State.writeCell; split <;> rfl
@[simp] theorem State.writeCell_port (s : State) (c : Cell) (v : F64) : (s.writeCell c v).port = s.port := by
  unfold State.writeCell; split <;> rfl

/-! ### `State.sequence` -/

theorem State.sequence_of_crashed (s : State) (h : s.crashed = true) : s.sequence = s.leaveTick := by
  simp [State.sequence, h]

theorem State.sequence_of_ready (s : State) (h : s.crashed = false) (r : s.status = .ready) :
    s.sequence = { s with pc := s.npc.getD (s.pc + 1) } := by
  simp [State.sequence, h, r]

theorem State.sequence_of_suspended (s : State) (h : s.crashed = false) (r : s.status ≠ .ready) :
    s.sequence = { s with pc := s.npc.getD (s.pc + 1), inTick := false } := by
  simp [State.sequence, h, r, State.leaveTick]

@[simp] theorem State.sequence_params (s : State) : s.sequence.params = s.params := by
  unfold State.sequence; dsimp only; split; rfl; split <;> rfl
@[simp] theorem State.sequence_x (s : State) : s.sequence.x = s.x := by
  unfold State.sequence; dsimp only; split; rfl; split <;> rfl
@[simp] theorem State.sequence_sp (s : State) : s.sequence.sp = s.sp := by
  unfold State.sequence; dsimp only; split; rfl; split <;> rfl
@[simp] theorem State.sequence_ra (s : State) : s.sequence.ra = s.ra := by
  unfold State.sequence; dsimp only; split; rfl; split <;> rfl
@[simp] theorem State.sequence_npc (s : State) : s.sequence.npc = s.npc := by
  unfold State.sequence; dsimp only; split; rfl; split <;> rfl
@[simp] theorem State.sequence_stack (s : State) : s.sequence.stack = s.stack := by
  unfold State.sequence; dsimp only; split; rfl; split <;> rfl
@[simp] theorem State.sequence_aliases (s : State) : s.sequence.aliases = s.aliases := by
  unfold State.sequence; dsimp only; split; rfl; split <;> rfl
@[simp] theorem State.sequence_defines (s : State) : s.sequence.defines = s.defines := by
  unfold State.sequence; dsimp only; split; rfl; split <;> rfl
@[simp] theorem State.sequence_labels (s : State) : s.sequence.labels = s.labels := by
  unfold State.sequence; dsimp only; split; rfl; split <;> rfl
@[simp] theorem State.sequence_program (s : State) : s.sequence.program = s.program := by
  unfold State.sequence; dsimp only; split; rfl; split <;> rfl
@[simp] theorem State.sequence_status (s : State) : s.sequence.status = s.status := by
  unfold State.sequence; dsimp only; split; rfl; split <;> rfl
@[simp] theorem State.sequence_crashed (s : State) : s.sequence.crashed = s.crashed := by
  unfold State.sequence; dsimp only; split; rfl; split <;> rfl
@[simp] theorem State.sequence_error (s : State) : s.sequence.error = s.error := by
  unfold State.sequence; dsimp only; split; rfl; split <;> rfl
@[simp] theorem State.sequence_ic (s : State) : s.sequence.ic = s.ic := by
  unfold State.sequence; dsimp only; split; rfl; split <;> rfl
@[simp] theorem State.sequence_resume (s : State) : s.sequence.resume = s.resume := by
  unfold State.sequence; dsimp only; split; rfl; split <;> rfl
@[simp] theorem State.sequence_now (s : State) : s.sequence.now = s.now := by
  unfold State.sequence; dsimp only; split; rfl; split <;> rfl
@[simp] theorem State.sequence_loadError (s : State) : s.sequence.loadError = s.loadError := by
  unfold State.sequence; dsimp only; split; rfl; split <;> rfl
@[simp] theorem State.sequence_commands (s : State) : s.sequence.commands = s.commands := by
  unfold State.sequence; dsimp only; split; rfl; split <;> rfl
@[simp] theorem State.sequence_port (s : State) : s.sequence.port = s.port := by
  unfold State.sequence; dsimp only; split; rfl; split <;> rfl

end Sys2Proof.Machine
end

