-- ==== Sys2Proof/Laws/Ops.lean ====
section
/-! SUPPORT. What each named operation can do: registers, tables, checked indices, and computations. -/

namespace Sys2Proof.Machine

/-! ### Registers -/

@[simp] theorem State.home_writeCell (s : State) (c d : Cell) (v : F64) : (s.writeCell c v).home d = s.home d := by
  cases d <;> simp [State.home]

/-- The home of a cell is its own home. -/
theorem State.home_home (s : State) (c : Cell) : s.home (s.home c) = s.home c := by
  cases c with
  | x i => rfl
  | sp => by_cases h : s.params.spRaAliased = true <;> simp [State.home, h]
  | ra => by_cases h : s.params.spRaAliased = true <;> simp [State.home, h]

/-- A write is read back under every name of the same cell. -/
theorem State.readCell_writeCell_same (s : State) (c d : Cell) (v : F64) (h : s.home d = s.home c) :
    (s.writeCell c v).readCell d = v := by
  unfold State.readCell
  rw [State.home_writeCell, h]
  unfold State.writeCell
  split <;> simp_all [Vector.get, Vector.set]
  exact Array.getElem_set_self ..

/-- A write leaves every other cell alone. -/
theorem State.readCell_writeCell_other (s : State) (c d : Cell) (v : F64) (h : s.home d ≠ s.home c) :
    (s.writeCell c v).readCell d = s.readCell d := by
  unfold State.readCell
  rw [State.home_writeCell]
  unfold State.writeCell
  split <;> split <;> simp_all [Vector.get, Vector.set, Fin.ext_iff]
  exact Array.getElem_set_ne _ _ (fun e => h e.symm)

/-- A write of what a cell holds changes nothing. -/
theorem State.registersKept_writeCell (s : State) (c : Cell) (v : F64) : RegistersKept s (s.writeCell c v) [c] :=
  fun d h => State.readCell_writeCell_other s c d v (h c (by simp))

theorem State.sameButRegisters_writeCell (s : State) (c : Cell) (v : F64) : SameButRegisters s (s.writeCell c v) := by
  unfold SameButRegisters State.writeCell
  split <;> rfl

/-- One register write is what `WritesOnly` says. -/
theorem writesOnly_writeCell (s : State) (c : Cell) (v : F64) : WritesOnly (.next (s.writeCell c v)) s c v :=
  ⟨_, rfl, State.readCell_writeCell_same s c c v rfl, State.registersKept_writeCell s c v, fun a => by simp,
    State.sameButRegisters_writeCell s c v⟩

/-- One register write after a change of the port is what `WritesWithPort` says. -/
theorem writesWithPort_writeCell (s : State) (p : Port) (c : Cell) (v : F64) :
    WritesWithPort (.next ({ s with port := p }.writeCell c v)) s c v p :=
  ⟨_, rfl, State.readCell_writeCell_same _ c c v rfl,
    fun d h => State.readCell_writeCell_other { s with port := p } c d v (h c (by simp)), fun a => by simp, by simp,
    State.sameButRegisters_writeCell _ c v⟩

/-! ### Tables -/

theorem lookupIn_bindIn_same {α : Type} (t : List (Ident × α)) (n : Ident) (v : α) :
    lookupIn (bindIn t n v) n = some v := by
  induction t with
  | nil => simp [bindIn, lookupIn]
  | cons e rest ih =>
    obtain ⟨m, w⟩ := e
    by_cases h : m = n <;> simp [bindIn, lookupIn, h, ih]

theorem lookupIn_bindIn_other {α : Type} (t : List (Ident × α)) (n m : Ident) (v : α) (h : m ≠ n) :
    lookupIn (bindIn t n v) m = lookupIn t m := by
  induction t with
  | nil => simp [bindIn, lookupIn, Ne.symm h]
  | cons e rest ih =>
    obtain ⟨k, w⟩ := e
    by_cases hk : k = n
    · subst hk; simp [bindIn, lookupIn, Ne.symm h]
    · simp [bindIn, lookupIn, hk, ih]

/-- What a table binds stands in it. -/
theorem mem_of_lookupIn {α : Type} (t : List (Ident × α)) (n : Ident) (v : α) (h : lookupIn t n = some v) :
    (n, v) ∈ t := by
  induction t with
  | nil => simp [lookupIn] at h
  | cons e rest ih =>
    obtain ⟨m, w⟩ := e
    by_cases hm : m = n
    · simp [lookupIn, hm] at h; simp [hm, h]
    · simp [lookupIn, hm] at h; exact List.mem_cons_of_mem _ (ih h)

/-- Binding adds one pair. -/
theorem mem_bindIn {α : Type} (t : List (Ident × α)) (n m : Ident) (v w : α) (h : (m, w) ∈ bindIn t n v) :
    (m, w) = (n, v) ∨ (m, w) ∈ t := by
  induction t with
  | nil => simpa [bindIn] using h
  | cons e rest ih =>
    obtain ⟨k, u⟩ := e
    by_cases hk : k = n
    · simp only [bindIn, hk, if_true, List.mem_cons] at h
      rcases h with h | h
      · exact .inl h
      · exact .inr (List.mem_cons_of_mem _ h)
    · simp only [bindIn, hk, if_false, List.mem_cons] at h
      rcases h with h | h
      · exact .inr (by simp [h])
      · rcases ih h with h | h
        · exact .inl h
        · exact .inr (List.mem_cons_of_mem _ h)

theorem names_bindIn {α : Type} (t : List (Ident × α)) (n k : Ident) (v : α) (h : k ∈ (bindIn t n v).map (·.1)) :
    k = n ∨ k ∈ t.map (·.1) := by
  obtain ⟨⟨m, w⟩, hm, rfl⟩ := List.mem_map.1 h
  rcases mem_bindIn t n m v w hm with h | h
  · exact .inl (by simpa using (congrArg Prod.fst h))
  · exact .inr (List.mem_map.2 ⟨_, h, rfl⟩)

/-- Binding keeps a table a map. -/
theorem isMap_bindIn {α : Type} (t : List (Ident × α)) (n : Ident) (v : α) (h : isMap t) : isMap (bindIn t n v) := by
  induction t with
  | nil => simp [bindIn, isMap]
  | cons e rest ih =>
    obtain ⟨k, u⟩ := e
    simp only [isMap, List.map_cons, List.nodup_cons] at h
    by_cases hk : k = n
    · subst hk
      simpa [bindIn, isMap] using h
    · simp only [bindIn, hk, if_false, isMap, List.map_cons, List.nodup_cons]
      refine ⟨fun hmem => ?_, ih h.2⟩
      rcases names_bindIn rest n k v hmem with h' | h'
      · exact hk h'
      · exact h.1 h'

theorem isMap_bindAll {α : Type} (ps t : List (Ident × α)) (h : isMap t) : isMap (bindAll t ps) := by
  induction ps generalizing t with
  | nil => exact h
  | cons p rest ih => exact ih _ (isMap_bindIn t p.1 p.2 h)

theorem mem_bindAll {α : Type} (ps t : List (Ident × α)) (m : Ident) (w : α) (h : (m, w) ∈ bindAll t ps) :
    (m, w) ∈ ps ∨ (m, w) ∈ t := by
  induction ps generalizing t with
  | nil => exact .inr h
  | cons p rest ih =>
    rcases ih _ h with h | h
    · exact .inl (List.mem_cons_of_mem _ h)
    · rcases mem_bindIn t p.1 m p.2 w h with h | h
      · exact .inl (by simp [h])
      · exact .inr h

/-! ### Checked indices -/

theorem toIdx_eq_ok (v : F64) (e : RunError) (i : Int) : toIdx v e = .ok i ↔ F64.truncInt v = some i := by
  unfold toIdx
  split <;> simp_all

theorem toIdx_eq_error (v : F64) (e : RunError) (x : Exn) :
    toIdx v e = .error x ↔ F64.truncInt v = none ∧ x = .raised e := by
  unfold toIdx
  split
  · next i hi => simp [hi]
  · next hi => simp [hi, eq_comm]

/-- A checked stack address is the truncated value, inside the stack. -/
theorem stackAddr_eq_ok (v : F64) (a : Nat) :
    stackAddr v = .ok a ↔ F64.truncInt v = some (a : Int) ∧ a < stackCapacity := by
  unfold stackAddr toIdx stackCapacity
  cases h : F64.truncInt v with
  | none => simp
  | some i =>
    dsimp only
    by_cases h0 : i < 0
    · simp [h0]; omega
    · by_cases h1 : (512 : Int) ≤ i
      · simp only [h0, if_false]
        simp [h1]; omega
      · simp only [h0, if_false]
        simp [h1]; omega

theorem stackAddr_lt (v : F64) (a : Nat) (h : stackAddr v = .ok a) : a < stackCapacity :=
  ((stackAddr_eq_ok v a).1 h).2

/-- A checked jump target is the truncated value, inside the program. -/
theorem State.target_eq_ok (s : State) (v : F64) (t : Nat) :
    s.target v = .ok t ↔ F64.truncInt v = some (t : Int) ∧ t < s.len := by
  unfold State.target toIdx
  cases h : F64.truncInt v with
  | none => simp
  | some i =>
    dsimp only
    by_cases h0 : i < 0 ∨ (s.len : Int) ≤ i
    · simp [h0]; omega
    · simp [h0]; omega

/-- A jump target that is no line is InvalidProgramCounter. -/
theorem State.target_eq_error (s : State) (v : F64) (x : Exn) (h : s.target v = .error x) :
    x = .raised .invalidProgramCounter := by
  unfold State.target at h
  split at h
  · next e he => rw [toIdx_eq_error] at he; simp_all
  · split at h <;> simp_all

/-! ### Computations -/

@[simp] theorem look_apply {α : Type} (f : State → Except Exn α) (s : State) (a : α) (h : f s = .ok a) :
    look f s = .ok a s := by
  simp [look, h]

theorem look_error {α : Type} (f : State → Except Exn α) (s : State) (e : Exn) (h : f s = .error e) :
    look f s = .error e s := by
  simp [look, h]

/-- A step of a computation that answers, and then the rest. -/
theorem bind_of_ok {α β : Type} (m : M α) (f : α → M β) (s t : State) (a : α) (h : m s = .ok a t) :
    (m >>= f) s = f a t := by
  change (EStateM.bind m f) s = _
  simp [EStateM.bind, h]

/-- A step of a computation that does not complete ends it. -/
theorem bind_of_error {α β : Type} (m : M α) (f : α → M β) (s t : State) (e : Exn) (h : m s = .error e t) :
    (m >>= f) s = .error e t := by
  change (EStateM.bind m f) s = _
  simp [EStateM.bind, h]

@[simp] theorem pure_apply {α : Type} (a : α) (s : State) : (pure a : M α) s = .ok a s := rfl
@[simp] theorem raise_apply {α : Type} (e : RunError) (s : State) : (raise e : M α) s = .error (.raised e) s := rfl
@[simp] theorem update_apply (f : State → State) (s : State) : update f s = .ok () (f s) := rfl
@[simp] theorem setCell_apply (c : Cell) (v : F64) (s : State) : setCell c v s = .ok () (s.writeCell c v) := rfl
@[simp] theorem setStack_apply (a : Nat) (v : F64) (s : State) :
    setStack a v s = .ok () { s with stack := s.stack.write a v } := rfl
@[simp] theorem setNpc_apply (t : Nat) (s : State) : setNpc t s = .ok () { s with npc := some t } := rfl

theorem perform_ok (m : M Unit) (s t : State) (h : m s = .ok () t) : perform m s = .next t := by
  simp [perform, h]

theorem perform_raised (m : M Unit) (s t : State) (e : RunError) (h : m s = .error (.raised e) t) :
    perform m s = .next ({ s with port := t.port }.fatal e) := by
  simp [perform, h]

/-- What a performed computation can answer: its own result, or the fatal entry that keeps only the port. -/
theorem perform_next (m : M Unit) (s u : State) (h : perform m s = .next u) :
    m s = .ok () u ∨ ∃ e t, m s = .error (.raised e) t ∧ u = { s with port := t.port }.fatal e := by
  unfold perform at h
  split at h
  · simp_all
  · next e t he => exact .inr ⟨e, t, he, by simpa using h.symm⟩
  · simp at h

/-- A performed computation faults only where the computation stops. -/
theorem perform_fault (m : M Unit) (s : State) (f : Fault) (h : perform m s = .fault f) :
    ∃ t, m s = .error (.stopped f) t := by
  unfold perform at h
  split at h
  · simp at h
  · simp at h
  · next g t he =>
    injection h with hg
    exact ⟨t, by rw [he, hg]⟩

/-- No performed computation is refused. -/
theorem perform_not_refused (m : M Unit) (s : State) (r : Refusal) : perform m s ≠ .refused r := by
  unfold perform
  split <;> simp

end Sys2Proof.Machine
end

