-- ==== Sys2Proof/Laws/Operands.lean ====
section
/-! SUPPORT. What operand resolution and the three arithmetic templates do. -/

namespace Sys2Proof.Machine

/-! ### Operand resolution reads no device port, stack, status or latch -/

/-- Two states that agree in everything operand resolution reads. -/
structure SameOperands (s t : State) : Prop where
  params : t.params = s.params
  x : t.x = s.x
  sp : t.sp = s.sp
  ra : t.ra = s.ra
  aliases : t.aliases = s.aliases
  defines : t.defines = s.defines
  labels : t.labels = s.labels

theorem SameOperands.refl (s : State) : SameOperands s s := ⟨rfl, rfl, rfl, rfl, rfl, rfl, rfl⟩

theorem sameOperands_port (s : State) (p : Port) : SameOperands s { s with port := p } :=
  ⟨rfl, rfl, rfl, rfl, rfl, rfl, rfl⟩

theorem sameOperands_stack (s : State) (m : Memory) : SameOperands s { s with stack := m } :=
  ⟨rfl, rfl, rfl, rfl, rfl, rfl, rfl⟩

variable {s t : State}

theorem SameOperands.hops (h : SameOperands s t) (k : Nat) (i : Fin 18) : t.hops k i = s.hops k i := by
  induction k generalizing i with
  | zero => rfl
  | succ k ih => simp only [State.hops, h.x, ih]

theorem SameOperands.home (h : SameOperands s t) (c : Cell) : t.home c = s.home c := by
  cases c <;> simp [State.home, h.params]

theorem SameOperands.readCell (h : SameOperands s t) (c : Cell) : t.readCell c = s.readCell c := by
  simp only [State.readCell, h.home, h.x, h.sp, h.ra]

theorem SameOperands.cellOf (h : SameOperands s t) (r : Reg) : t.cellOf r = s.cellOf r := by
  cases r <;> simp only [State.cellOf, State.depthOk, h.hops, h.params]

theorem SameOperands.regValue (h : SameOperands s t) (r : Reg) : t.regValue r = s.regValue r := by
  simp only [State.regValue, h.cellOf, h.readCell]

theorem SameOperands.binding (h : SameOperands s t) (n : Ident) : t.binding n = s.binding n := by
  simp only [State.binding, h.aliases, h.defines, h.labels]

theorem SameOperands.value (h : SameOperands s t) (o : ValOp) : t.value o = s.value o := by
  cases o <;> simp only [State.value, h.regValue, h.binding]

theorem SameOperands.dest (h : SameOperands s t) (o : RegOp) : t.dest o = s.dest o := by
  cases o <;> simp only [State.dest, h.cellOf, h.binding]

theorem SameOperands.pinOf (h : SameOperands s t) (p : PinRef) : t.pinOf p = s.pinOf p := by
  cases p <;> simp only [State.pinOf, State.depthOk, h.hops, h.params, h.x]

theorem SameOperands.pin (h : SameOperands s t) (o : PinOp) : t.pin o = s.pin o := by
  cases o <;> simp only [State.pin, h.pinOf, h.binding]

theorem SameOperands.key (h : SameOperands s t) (o : KeyOp) : t.key o = s.key o := by
  cases o <;> simp only [State.key, h.value]

theorem SameOperands.mode (h : SameOperands s t) (o : ModeOp) : t.mode o = s.mode o := by
  cases o <;> simp only [State.mode, h.value]

/-! ### Each resolution step of an instruction -/

theorem value_ok (o : ValOp) (s : State) (v : F64) (h : s.value o = .ok v) : value o s = .ok v s :=
  look_apply _ s v h

theorem value_error (o : ValOp) (s : State) (e : Exn) (h : s.value o = .error e) : value o s = .error e s :=
  look_error _ s e h

theorem dest_ok (o : RegOp) (s : State) (c : Cell) (h : s.dest o = .ok c) : dest o s = .ok c s :=
  look_apply _ s c h

theorem dest_error (o : RegOp) (s : State) (e : Exn) (h : s.dest o = .error e) : dest o s = .error e s :=
  look_error _ s e h

theorem key_ok (o : KeyOp) (s : State) (k : Key) (h : s.key o = .ok k) : key o s = .ok k s :=
  look_apply _ s k h

theorem mode_ok (o : ModeOp) (s : State) (m : BatchMode) (h : s.mode o = .ok m) : mode o s = .ok m s :=
  look_apply _ s m h

/-- A pin operand: the pin, and the host's answer for it. -/
theorem pin_ok (o : PinOp) (s : State) (p : Pin) (h : s.pin o = .ok p) :
    pin o s = .ok (s.port.askPin p).1 { s with port := (s.port.askPin p).2 } := by
  unfold pin
  rw [bind_of_ok _ _ s s p (look_apply _ s p h)]
  rfl

theorem pin_error (o : PinOp) (s : State) (e : Exn) (h : s.pin o = .error e) : pin o s = .error e s := by
  unfold pin
  rw [bind_of_error _ _ s s e (look_error _ s e h)]

/-! ### The templates -/

/-- One source: the destination's cell gets the operation's result, and nothing else changes. -/
theorem unary_ok (f : F64 → F64) (r : RegOp) (a : ValOp) (s : State) (c : Cell) (x : F64)
    (hr : s.dest r = .ok c) (ha : s.value a = .ok x) : unary f r a s = .ok () (s.writeCell c (f x)) := by
  unfold unary
  rw [bind_of_ok _ _ s s c (dest_ok r s c hr), bind_of_ok _ _ s s x (value_ok a s x ha)]
  rfl

theorem binary_ok (f : F64 → F64 → F64) (r : RegOp) (a b : ValOp) (s : State) (c : Cell) (x y : F64)
    (hr : s.dest r = .ok c) (ha : s.value a = .ok x) (hb : s.value b = .ok y) :
    binary f r a b s = .ok () (s.writeCell c (f x y)) := by
  unfold binary
  rw [bind_of_ok _ _ s s c (dest_ok r s c hr), bind_of_ok _ _ s s x (value_ok a s x ha),
    bind_of_ok _ _ s s y (value_ok b s y hb)]
  rfl

theorem ternary_ok (f : F64 → F64 → F64 → F64) (r : RegOp) (a b d : ValOp) (s : State) (c : Cell) (x y z : F64)
    (hr : s.dest r = .ok c) (ha : s.value a = .ok x) (hb : s.value b = .ok y) (hd : s.value d = .ok z) :
    ternary f r a b d s = .ok () (s.writeCell c (f x y z)) := by
  unfold ternary
  rw [bind_of_ok _ _ s s c (dest_ok r s c hr), bind_of_ok _ _ s s x (value_ok a s x ha),
    bind_of_ok _ _ s s y (value_ok b s y hb), bind_of_ok _ _ s s z (value_ok d s z hd)]
  rfl

/-- A template completes only with its operands resolved. -/
theorem unary_inv (f : F64 → F64) (r : RegOp) (a : ValOp) (s t : State) (h : unary f r a s = .ok () t) :
    ∃ c x, s.dest r = .ok c ∧ s.value a = .ok x ∧ t = s.writeCell c (f x) := by
  cases hr : s.dest r with
  | error e => rw [unary, bind_of_error _ _ s s e (dest_error r s e hr)] at h; cases h
  | ok c =>
    cases ha : s.value a with
    | error e =>
      rw [unary, bind_of_ok _ _ s s c (dest_ok r s c hr), bind_of_error _ _ s s e (value_error a s e ha)] at h
      cases h
    | ok x =>
      rw [unary_ok f r a s c x hr ha] at h
      injection h with _ ht
      exact ⟨c, x, rfl, rfl, ht.symm⟩

/-! ### The device port -/

theorem ask_apply {α : Type} (f : Port → α × Port) (s : State) (a : α) (q : Port) (h : f s.port = (a, q)) :
    ask f s = .ok a { s with port := q } := by
  simp [ask, h]

theorem need_some (h : Handle) (s : State) : need (some h) s = .ok h s := rfl
theorem need_none (s : State) : need none s = .error (.raised .deviceNotFound) s := rfl

theorem readCall_value (c : DevCall) (s : State) (v : F64) (q : Port) (h : s.port.askRead c = (.value v, q)) :
    readCall c s = .ok v { s with port := q } := by
  unfold readCall
  rw [bind_of_ok _ _ s _ _ (ask_apply _ s _ q h)]
  rfl

theorem readCall_fails (c : DevCall) (s : State) (f : DevFail) (q : Port) (h : s.port.askRead c = (.fails f, q)) :
    readCall c s = .error (.raised (failError f)) { s with port := q } := by
  unfold readCall
  rw [bind_of_ok _ _ s _ _ (ask_apply _ s _ q h)]
  rfl

theorem writeCall_done (c : DevCall) (s : State) (q : Port) (h : s.port.askWrite c = (.done, q)) :
    writeCall c s = .ok () { s with port := q } := by
  unfold writeCall
  rw [bind_of_ok _ _ s _ _ (ask_apply _ s _ q h)]
  rfl

theorem writeCall_fails (c : DevCall) (s : State) (f : DevFail) (q : Port) (h : s.port.askWrite c = (.fails f, q)) :
    writeCall c s = .error (.raised (failError f)) { s with port := q } := by
  unfold writeCall
  rw [bind_of_ok _ _ s _ _ (ask_apply _ s _ q h)]
  rfl

theorem readCellCall_value (c : DevCall) (s : State) (v : F64) (q : Port) (h : s.port.askRead c = (.value v, q)) :
    readCellCall c s = .ok v { s with port := q } := by
  unfold readCellCall
  rw [bind_of_ok _ _ s _ _ (ask_apply _ s _ q h)]
  rfl

theorem writeCellCall_done (c : DevCall) (s : State) (q : Port) (h : s.port.askWrite c = (.done, q)) :
    writeCellCall c s = .ok () { s with port := q } := by
  unfold writeCellCall
  rw [bind_of_ok _ _ s _ _ (ask_apply _ s _ q h)]
  rfl

end Sys2Proof.Machine
end

