-- ==== Sys2Proof/Laws/Frame.lean ====
section
/-! SUPPORT. What an instruction can do to the state, said once: a relation that the elementary changes keep is kept
by every instruction, up to the fatal entry. -/

namespace Sys2Proof.Machine

/-- Every change of state that an instruction is made of stands in `R`, but for the changes of the tables and the status
that single instructions make. -/
structure Elementary (R : State → State → Prop) : Prop where
  refl : ∀ s, R s s
  trans : ∀ s t u, R s t → R t u → R s u
  cell : ∀ s c v, R s (s.writeCell c v)
  npc : ∀ s t, R s { s with npc := some t }
  stack : ∀ s a v, a < stackCapacity → R s { s with stack := s.stack.write a v }
  clear : ∀ s, R s { s with stack := [] }
  port : ∀ s q, Port.Grows s.port q → R s { s with port := q }

/-- A computation relates the state it starts in to the state it ends in, however it ends. -/
def Keeps {α : Type} (R : State → State → Prop) (m : M α) : Prop :=
  ∀ s, (∀ a t, m s = .ok a t → R s t) ∧ (∀ e t, m s = .error e t → R s t)

section

variable {R : State → State → Prop} (hR : Elementary R) {α β : Type}

include hR

theorem keeps_pure (a : α) : Keeps R (pure a : M α) := fun s =>
  ⟨fun _ t h => by rw [pure_apply] at h; injection h with _ h; exact h ▸ hR.refl s, fun _ _ h => nomatch h⟩

theorem keeps_raise (e : RunError) : Keeps R (raise e : M α) := fun s =>
  ⟨fun _ _ h => (nomatch h), fun _ t h => by rw [raise_apply] at h; injection h with _ h; exact h ▸ hR.refl s⟩

theorem keeps_bind (m : M α) (f : α → M β) (hm : Keeps R m) (hf : ∀ a, Keeps R (f a)) : Keeps R (m >>= f) := by
  intro s
  cases h : m s with
  | ok a t =>
    rw [bind_of_ok m f s t a h]
    have hst := (hm s).1 a t h
    exact ⟨fun b u hu => hR.trans _ _ _ hst ((hf a t).1 b u hu), fun e u hu => hR.trans _ _ _ hst ((hf a t).2 e u hu)⟩
  | error e t =>
    rw [bind_of_error m f s t e h]
    have hst := (hm s).2 e t h
    exact ⟨fun _ _ hu => (nomatch hu), fun _ u hu => by injection hu with _ hu; exact hu ▸ hst⟩

theorem keeps_look (f : State → Except Exn α) : Keeps R (look f) := by
  intro s
  unfold look
  constructor
  · intro a t h
    split at h
    · injection h with _ h; exact h ▸ hR.refl s
    · cases h
  · intro e t h
    split at h
    · cases h
    · injection h with _ h; exact h ▸ hR.refl s

omit hR in
theorem keeps_update (f : State → State) (hf : ∀ s, R s (f s)) : Keeps R (update f) := fun s =>
  ⟨fun _ t h => by rw [update_apply] at h; injection h with _ h; exact h ▸ hf s, fun _ _ h => nomatch h⟩

theorem keeps_setCell (c : Cell) (v : F64) : Keeps R (setCell c v) := keeps_update _ fun s => hR.cell s c v

theorem keeps_setNpc (t : Nat) : Keeps R (setNpc t) := keeps_update _ fun s => hR.npc s t

theorem keeps_get : Keeps R (get : M State) := fun s =>
  ⟨fun _ t h => by cases h; exact hR.refl s, fun _ _ h => nomatch h⟩

theorem keeps_ask (f : Port → α × Port) (hf : ∀ p, Port.Grows p (f p).2) : Keeps R (ask f) := fun s =>
  ⟨fun _ t h => by cases h; exact hR.port s _ (hf s.port), fun _ _ h => nomatch h⟩

end

/-! ### No call changes a pin binding (10_state.md R131), and every call stays made -/

theorem Port.Grows.refl (p : Port) : Port.Grows p p := ⟨rfl, [], rfl⟩

theorem Port.Grows.trans {p q r : Port} (h : Port.Grows p q) (k : Port.Grows q r) : Port.Grows p r := by
  obtain ⟨hp, m, hm⟩ := h
  obtain ⟨kp, n, kn⟩ := k
  exact ⟨kp.trans hp, n ++ m, by rw [kn, hm, List.append_assoc]⟩

theorem Port.askPin_grows (p : Port) (pin : Pin) : Port.Grows p (p.askPin pin).2 := by
  unfold Port.askPin Port.nextPin Port.record
  split
  · exact ⟨rfl, [_], rfl⟩
  · dsimp only
    split <;> exact ⟨rfl, [_], rfl⟩

theorem Port.askId_grows (p : Port) (id : F64) : Port.Grows p (p.askId id).2 := by
  unfold Port.askId Port.nextId Port.record
  split <;> exact ⟨rfl, [_], rfl⟩

theorem Port.askSet_grows (p : Port) (t : F64) (n : Option F64) : Port.Grows p (p.askSet t n).2 := by
  unfold Port.askSet Port.nextSet Port.record
  split <;> exact ⟨rfl, [_], rfl⟩

theorem Port.askRead_grows (p : Port) (c : DevCall) : Port.Grows p (p.askRead c).2 := by
  unfold Port.askRead Port.nextRead Port.record
  split <;> exact ⟨rfl, [_], rfl⟩

theorem Port.askWrite_grows (p : Port) (c : DevCall) : Port.Grows p (p.askWrite c).2 := by
  unfold Port.askWrite Port.nextWrite Port.record
  split <;> exact ⟨rfl, [_], rfl⟩

theorem Port.record_grows (p : Port) (c : DevCall) : Port.Grows p (p.record c) := ⟨rfl, [_], rfl⟩

theorem Port.nextDraw_grows (p : Port) : Port.Grows p p.nextDraw.2 := by
  unfold Port.nextDraw
  split <;> exact ⟨rfl, [], rfl⟩

/-! ### Shared operations -/

section

variable {R : State → State → Prop} (hR : Elementary R)

include hR

theorem keeps_value (o : ValOp) : Keeps R (value o) := keeps_look hR _
theorem keeps_dest (o : RegOp) : Keeps R (dest o) := keeps_look hR _
theorem keeps_key (o : KeyOp) : Keeps R (key o) := keeps_look hR _
theorem keeps_mode (o : ModeOp) : Keeps R (mode o) := keeps_look hR _

theorem keeps_pin (o : PinOp) : Keeps R (pin o) :=
  keeps_bind hR _ _ (keeps_look hR _) fun p => keeps_ask hR _ fun q => q.askPin_grows p

theorem keeps_unary (f : F64 → F64) (r : RegOp) (a : ValOp) : Keeps R (unary f r a) :=
  keeps_bind hR _ _ (keeps_dest hR r) fun c => keeps_bind hR _ _ (keeps_value hR a) fun _ => keeps_setCell hR c _

theorem keeps_binary (f : F64 → F64 → F64) (r : RegOp) (a b : ValOp) : Keeps R (binary f r a b) :=
  keeps_bind hR _ _ (keeps_dest hR r) fun c => keeps_bind hR _ _ (keeps_value hR a) fun _ =>
    keeps_bind hR _ _ (keeps_value hR b) fun _ => keeps_setCell hR c _

theorem keeps_ternary (f : F64 → F64 → F64 → F64) (r : RegOp) (a b d : ValOp) : Keeps R (ternary f r a b d) :=
  keeps_bind hR _ _ (keeps_dest hR r) fun c => keeps_bind hR _ _ (keeps_value hR a) fun _ =>
    keeps_bind hR _ _ (keeps_value hR b) fun _ => keeps_bind hR _ _ (keeps_value hR d) fun _ => keeps_setCell hR c _

theorem keeps_need (h : Option Handle) : Keeps R (need h) := by
  cases h with
  | none => exact keeps_raise hR _
  | some h => exact keeps_pure hR h

theorem keeps_resolveId (id : F64) : Keeps R (resolveId id) := keeps_ask hR _ fun p => p.askId_grows id

theorem keeps_resolveHash (t : F64) (n : Option F64) : Keeps R (resolveHash t n) :=
  keeps_ask hR _ fun p => p.askSet_grows t n

theorem keeps_readCall (c : DevCall) : Keeps R (readCall c) :=
  keeps_bind hR _ _ (keeps_ask hR _ fun p => p.askRead_grows c) fun a => by
    cases a <;> first | exact keeps_pure hR _ | exact keeps_raise hR _

theorem keeps_readCellCall (c : DevCall) : Keeps R (readCellCall c) :=
  keeps_bind hR _ _ (keeps_ask hR _ fun p => p.askRead_grows c) fun a => by
    cases a <;> first | exact keeps_pure hR _ | exact keeps_raise hR _

theorem keeps_writeCall (c : DevCall) : Keeps R (writeCall c) :=
  keeps_bind hR _ _ (keeps_ask hR _ fun p => p.askWrite_grows c) fun a => by
    cases a <;> first | exact keeps_pure hR _ | exact keeps_raise hR _

theorem keeps_writeCellCall (c : DevCall) : Keeps R (writeCellCall c) :=
  keeps_bind hR _ _ (keeps_ask hR _ fun p => p.askWrite_grows c) fun a => by
    cases a <;> first | exact keeps_pure hR _ | exact keeps_raise hR _

/-- A checked address, and then a write of that stack cell. -/
theorem keeps_writeAt (f : State → F64) (v : F64) (rest : Nat → M Unit) (hrest : ∀ i, Keeps R (rest i)) :
    Keeps R (do
      let i ← look fun t => stackAddr (f t)
      setStack i v
      rest i) := by
  intro s
  cases h : stackAddr (f s) with
  | error e =>
    rw [bind_of_error _ _ s s e (look_error _ s e h)]
    exact ⟨fun _ _ hu => (nomatch hu), fun _ u hu => by injection hu with _ hu; exact hu ▸ hR.refl s⟩
  | ok i =>
    rw [bind_of_ok _ _ s s i (look_apply _ s i h), bind_of_ok _ _ s _ () (setStack_apply i v s)]
    have hst := hR.stack s i v (stackAddr_lt _ i h)
    exact ⟨fun b u hu => hR.trans _ _ _ hst ((hrest i _).1 b u hu),
      fun e u hu => hR.trans _ _ _ hst ((hrest i _).2 e u hu)⟩

theorem keeps_devReadMem (h : Handle) (a : F64) : Keeps R (devReadMem h a) := by
  refine keeps_bind hR _ _ (keeps_get hR) fun s => ?_
  split
  · exact keeps_bind hR _ _ (keeps_look hR _) fun _ => keeps_bind hR _ _ (keeps_get hR) fun _ => keeps_pure hR _
  · exact keeps_readCellCall hR _

theorem keeps_devWriteMem (h : Handle) (a v : F64) : Keeps R (devWriteMem h a v) := by
  refine keeps_bind hR _ _ (keeps_get hR) fun s => ?_
  split
  · intro s
    cases ha : stackAddr a with
    | error e =>
      rw [bind_of_error _ _ s s e (look_error _ s e rfl)]
      exact ⟨fun _ _ hu => (nomatch hu), fun _ u hu => by injection hu with _ hu; exact hu ▸ hR.refl s⟩
    | ok i =>
      rw [bind_of_ok _ _ s s i (look_apply _ s i rfl), setStack_apply]
      exact ⟨fun _ u hu => by injection hu with _ hu; exact hu ▸ hR.stack s i v (stackAddr_lt _ i ha),
        fun _ _ hu => nomatch hu⟩
  · exact keeps_writeCellCall hR _

theorem keeps_devClearMem (h : Handle) : Keeps R (devClearMem h) := by
  refine keeps_bind hR _ _ (keeps_get hR) fun s => ?_
  split
  · exact keeps_update _ fun s => hR.clear s
  · exact keeps_ask hR _ fun p => p.record_grows _

theorem keeps_readEach (read : Handle → M F64) (hread : ∀ h, Keeps R (read h)) (hs : List Handle) :
    Keeps R (readEach read hs) := by
  induction hs with
  | nil => exact keeps_pure hR _
  | cons h rest ih =>
    exact keeps_bind hR _ _ (hread h) fun _ => keeps_bind hR _ _ ih fun _ => keeps_pure hR _

theorem keeps_writeEach (write : Handle → M Unit) (hwrite : ∀ h, Keeps R (write h)) (hs : List Handle) :
    Keeps R (writeEach write hs) := by
  induction hs with
  | nil => exact keeps_pure hR _
  | cons h rest ih => exact keeps_bind hR _ _ (hwrite h) fun _ => ih

end

/-! ### Instructions -/

/-- What a performed computation can answer, in terms of the relation it keeps. -/
theorem performed {R : State → State → Prop} (m : M Unit) (hm : Keeps R m) (s u : State) (h : perform m s = .next u) :
    R s u ∨ ∃ e t, R s t ∧ u = { s with port := t.port }.fatal e := by
  rcases perform_next m s u h with h | ⟨e, t, h, hu⟩
  · exact .inl ((hm s).1 () u h)
  · exact .inr ⟨e, t, (hm s).2 _ t h, hu⟩

end Sys2Proof.Machine
end

