-- ==== Sys2Proof/Laws/Device.lean ====
section
/-! SUPPORT. What each call of the device port answers, and series of calls over a handle set. -/

namespace Sys2Proof.Machine

/-! ### Resolution -/

theorem pin_answer (o : PinOp) (s : State) (p : Pin) (h : Option Handle) (q : Port) (hp : s.pin o = .ok p)
    (ha : s.port.askPin p = (h, q)) : pin o s = .ok h { s with port := q } := by
  rw [pin_ok o s p hp, ha]

theorem resolveId_answer (s : State) (x : F64) (h : Option Handle) (q : Port) (ha : s.port.askId x = (h, q)) :
    resolveId x s = .ok h { s with port := q } :=
  ask_apply _ s _ q ha

theorem resolveHash_answer (s : State) (t : F64) (n : Option F64) (hs : List Handle) (q : Port)
    (ha : s.port.askSet t n = (hs, q)) : resolveHash t n s = .ok hs { s with port := q } :=
  ask_apply _ s _ q ha

theorem get_bind {α : Type} (f : State → M α) (s : State) : ((get : M State) >>= f) s = f s s := rfl

/-! ### One call -/

theorem readCellCall_fails (c : DevCall) (s : State) (f : DevFail) (q : Port) (h : s.port.askRead c = (.fails f, q)) :
    readCellCall c s = .error (.raised .invalidLogicType) { s with port := q } := by
  unfold readCellCall
  rw [bind_of_ok _ _ s _ _ (ask_apply _ s _ q h)]
  rfl

theorem writeCellCall_fails (c : DevCall) (s : State) (f : DevFail) (q : Port)
    (h : s.port.askWrite c = (.fails f, q)) :
    writeCellCall c s = .error (.raised .invalidLogicType) { s with port := q } := by
  unfold writeCellCall
  rw [bind_of_ok _ _ s _ _ (ask_apply _ s _ q h)]
  rfl

variable (s : State) (h : Handle) (k : Key) (i v w : F64) (q : Port) (f : DevFail)

theorem devRead_value (ha : s.port.askRead (.read h k) = (.value v, q)) :
    devRead h k s = .ok v { s with port := q } := readCall_value _ s v q ha

theorem devRead_fails (ha : s.port.askRead (.read h k) = (.fails f, q)) :
    devRead h k s = .error (.raised (failError f)) { s with port := q } := readCall_fails _ s f q ha

theorem devReadSlot_value (ha : s.port.askRead (.readSlot h i k) = (.value v, q)) :
    devReadSlot h i k s = .ok v { s with port := q } := readCall_value _ s v q ha

theorem devReadSlot_fails (ha : s.port.askRead (.readSlot h i k) = (.fails f, q)) :
    devReadSlot h i k s = .error (.raised (failError f)) { s with port := q } := readCall_fails _ s f q ha

theorem devReadReagent_value (ha : s.port.askRead (.readReagent h k i) = (.value v, q)) :
    devReadReagent h k i s = .ok v { s with port := q } := readCellCall_value _ s v q ha

theorem devReadReagent_fails (ha : s.port.askRead (.readReagent h k i) = (.fails f, q)) :
    devReadReagent h k i s = .error (.raised .invalidLogicType) { s with port := q } := readCellCall_fails _ s f q ha

theorem devWrite_done (ha : s.port.askWrite (.write h k v) = (.done, q)) :
    devWrite h k v s = .ok () { s with port := q } := writeCall_done _ s q ha

theorem devWrite_fails (ha : s.port.askWrite (.write h k v) = (.fails f, q)) :
    devWrite h k v s = .error (.raised (failError f)) { s with port := q } := writeCall_fails _ s f q ha

theorem devWriteSlot_done (ha : s.port.askWrite (.writeSlot h i k v) = (.done, q)) :
    devWriteSlot h i k v s = .ok () { s with port := q } := writeCall_done _ s q ha

theorem devWriteSlot_fails (ha : s.port.askWrite (.writeSlot h i k v) = (.fails f, q)) :
    devWriteSlot h i k v s = .error (.raised (failError f)) { s with port := q } := writeCall_fails _ s f q ha

/-! ### Device memory: the host's, or this core's stack (43_device.md R731) -/

theorem devReadMem_host (hm : s.memoryIsStack h = false) (ha : s.port.askRead (.readMem h i) = (.value v, q)) :
    devReadMem h i s = .ok v { s with port := q } := by
  unfold devReadMem
  rw [get_bind, hm]
  exact readCellCall_value _ s v q ha

theorem devReadMem_host_fails (hm : s.memoryIsStack h = false)
    (ha : s.port.askRead (.readMem h i) = (.fails f, q)) :
    devReadMem h i s = .error (.raised .invalidLogicType) { s with port := q } := by
  unfold devReadMem
  rw [get_bind, hm]
  exact readCellCall_fails _ s f q ha

theorem devReadMem_stack (hm : s.memoryIsStack h = true) (a : Nat) (ha : stackAddr i = .ok a) :
    devReadMem h i s = .ok (s.stack.read a) s := by
  unfold devReadMem
  rw [get_bind, hm]
  simp only [if_true]
  rw [bind_of_ok _ _ s s a (look_apply _ s a ha)]
  rfl

theorem devReadMem_stack_error (hm : s.memoryIsStack h = true) (e : Exn) (ha : stackAddr i = .error e) :
    devReadMem h i s = .error e s := by
  unfold devReadMem
  rw [get_bind, hm]
  simp only [if_true]
  rw [bind_of_error _ _ s s e (look_error _ s e ha)]

theorem devWriteMem_host (hm : s.memoryIsStack h = false) (ha : s.port.askWrite (.writeMem h i v) = (.done, q)) :
    devWriteMem h i v s = .ok () { s with port := q } := by
  unfold devWriteMem
  rw [get_bind, hm]
  exact writeCellCall_done _ s q ha

theorem devWriteMem_host_fails (hm : s.memoryIsStack h = false)
    (ha : s.port.askWrite (.writeMem h i v) = (.fails f, q)) :
    devWriteMem h i v s = .error (.raised .invalidLogicType) { s with port := q } := by
  unfold devWriteMem
  rw [get_bind, hm]
  exact writeCellCall_fails _ s f q ha

theorem devWriteMem_stack (hm : s.memoryIsStack h = true) (a : Nat) (ha : stackAddr i = .ok a) :
    devWriteMem h i v s = .ok () { s with stack := s.stack.write a v } := by
  unfold devWriteMem
  rw [get_bind, hm]
  simp only [if_true]
  rw [bind_of_ok _ _ s s a (look_apply _ s a ha)]
  rfl

theorem devWriteMem_stack_error (hm : s.memoryIsStack h = true) (e : Exn) (ha : stackAddr i = .error e) :
    devWriteMem h i v s = .error e s := by
  unfold devWriteMem
  rw [get_bind, hm]
  simp only [if_true]
  rw [bind_of_error _ _ s s e (look_error _ s e ha)]

theorem devClearMem_host (hm : s.memoryIsStack h = false) :
    devClearMem h s = .ok () { s with port := s.port.record (.clearMem h) } := by
  unfold devClearMem
  rw [get_bind, hm]
  rfl

theorem devClearMem_stack (hm : s.memoryIsStack h = true) : devClearMem h s = .ok () { s with stack := [] } := by
  unfold devClearMem
  rw [get_bind, hm]
  rfl

/-- Whether a handle's memory is the stack does not change while an instruction makes its calls. -/
theorem memoryIsStack_of_grows (hq : Port.Grows s.port q) : ({ s with port := q } : State).memoryIsStack h =
    s.memoryIsStack h := by
  simp only [State.memoryIsStack, hq.pins]

/-! ### Series of calls -/

theorem readEach_ok (read : Handle → M F64) (call : Handle → DevCall) (hread : ∀ h, read h = readCall (call h))
    (hs : List Handle) (vs : List F64) (ha : s.port.reads call hs = .ok (vs, q)) :
    readEach read hs s = .ok vs { s with port := q } := by
  induction hs generalizing s vs with
  | nil =>
    simp only [Port.reads, Except.ok.injEq, Prod.mk.injEq] at ha
    obtain ⟨rfl, rfl⟩ := ha
    rfl
  | cons d rest ih =>
    simp only [Port.reads] at ha
    split at ha
    · cases ha
    · next x p hx =>
      split at ha
      · next us r hr =>
        simp only [Except.ok.injEq, Prod.mk.injEq] at ha
        obtain ⟨rfl, rfl⟩ := ha
        unfold readEach
        rw [hread, bind_of_ok _ _ s _ x (readCall_value _ s x p hx), bind_of_ok _ _ _ _ us (ih _ us hr)]
        rfl
      · cases ha

theorem readEach_error (read : Handle → M F64) (call : Handle → DevCall) (hread : ∀ h, read h = readCall (call h))
    (hs : List Handle) (ha : s.port.reads call hs = .error (f, q)) :
    readEach read hs s = .error (.raised (failError f)) { s with port := q } := by
  induction hs generalizing s with
  | nil => cases ha
  | cons d rest ih =>
    simp only [Port.reads] at ha
    split at ha
    · next g p hg =>
      simp only [Except.error.injEq, Prod.mk.injEq] at ha
      obtain ⟨rfl, rfl⟩ := ha
      unfold readEach
      rw [hread, bind_of_error _ _ s _ _ (readCall_fails _ s g p hg)]
    · next x p hx =>
      split at ha
      · cases ha
      · next e hr =>
        cases ha
        unfold readEach
        rw [hread, bind_of_ok _ _ s _ x (readCall_value _ s x p hx), bind_of_error _ _ _ _ _ (ih _ hr)]

theorem writeEach_ok (write : Handle → M Unit) (call : Handle → DevCall)
    (hwrite : ∀ h, write h = writeCall (call h)) (hs : List Handle) (ha : s.port.writes call hs = .ok q) :
    writeEach write hs s = .ok () { s with port := q } := by
  induction hs generalizing s with
  | nil =>
    simp only [Port.writes, Except.ok.injEq] at ha
    subst ha
    rfl
  | cons d rest ih =>
    simp only [Port.writes] at ha
    split at ha
    · cases ha
    · next p hp =>
      unfold writeEach
      rw [hwrite, bind_of_ok _ _ s _ () (writeCall_done _ s p hp)]
      exact ih _ ha

theorem writeEach_error (write : Handle → M Unit) (call : Handle → DevCall)
    (hwrite : ∀ h, write h = writeCall (call h)) (hs : List Handle) (ha : s.port.writes call hs = .error (f, q)) :
    writeEach write hs s = .error (.raised (failError f)) { s with port := q } := by
  induction hs generalizing s with
  | nil => cases ha
  | cons d rest ih =>
    simp only [Port.writes] at ha
    split at ha
    · next g p hg =>
      simp only [Except.error.injEq, Prod.mk.injEq] at ha
      obtain ⟨rfl, rfl⟩ := ha
      unfold writeEach
      rw [hwrite, bind_of_error _ _ s _ _ (writeCall_fails _ s g p hg)]
    · next p hp =>
      unfold writeEach
      rw [hwrite, bind_of_ok _ _ s _ () (writeCall_done _ s p hp)]
      exact ih _ ha

/-- A network load that succeeds. -/
theorem loadBatch_ok (c : Cell) (t : F64) (n : Option F64) (m : BatchMode) (read : Handle → M F64)
    (call : Handle → DevCall) (hread : ∀ h, read h = readCall (call h)) (hs : List Handle) (p : Port) (vs : List F64)
    (hset : s.port.askSet t n = (hs, p)) (ha : p.reads call hs = .ok (vs, q)) :
    loadBatch c t n m read s = .ok () ({ s with port := q }.writeCell c (aggregate m vs)) := by
  unfold loadBatch
  rw [bind_of_ok _ _ s _ hs (resolveHash_answer s t n hs p hset),
    bind_of_ok _ _ _ _ vs (readEach_ok { s with port := p } q read call hread hs vs ha)]
  rfl

/-- A network load that fails. -/
theorem loadBatch_error (c : Cell) (t : F64) (n : Option F64) (m : BatchMode) (read : Handle → M F64)
    (call : Handle → DevCall) (hread : ∀ h, read h = readCall (call h)) (hs : List Handle) (p : Port)
    (hset : s.port.askSet t n = (hs, p)) (ha : p.reads call hs = .error (f, q)) :
    loadBatch c t n m read s = .error (.raised (failError f)) { s with port := q } := by
  unfold loadBatch
  rw [bind_of_ok _ _ s _ hs (resolveHash_answer s t n hs p hset),
    bind_of_error _ _ _ _ _ (readEach_error { s with port := p } q f read call hread hs ha)]

/-- A network store that succeeds. -/
theorem storeBatch_ok (t : F64) (n : Option F64) (write : Handle → M Unit) (call : Handle → DevCall)
    (hwrite : ∀ h, write h = writeCall (call h)) (hs : List Handle) (p : Port)
    (hset : s.port.askSet t n = (hs, p)) (ha : p.writes call hs = .ok q) :
    storeBatch t n write s = .ok () { s with port := q } := by
  unfold storeBatch
  rw [bind_of_ok _ _ s _ hs (resolveHash_answer s t n hs p hset)]
  exact writeEach_ok { s with port := p } q write call hwrite hs ha

/-- A network store that fails. -/
theorem storeBatch_error (t : F64) (n : Option F64) (write : Handle → M Unit) (call : Handle → DevCall)
    (hwrite : ∀ h, write h = writeCall (call h)) (hs : List Handle) (p : Port)
    (hset : s.port.askSet t n = (hs, p)) (ha : p.writes call hs = .error (f, q)) :
    storeBatch t n write s = .error (.raised (failError f)) { s with port := q } := by
  unfold storeBatch
  rw [bind_of_ok _ _ s _ hs (resolveHash_answer s t n hs p hset)]
  exact writeEach_error { s with port := p } q f write call hwrite hs ha

end Sys2Proof.Machine
end

