-- ==== Sys2Proof/Laws/Control.lean ====
section
/-! SUPPORT. What taken and not-taken jumps, calls and branches do. -/

namespace Sys2Proof.Machine

variable (s : State) (v : F64) (t : Nat)

/-! ### Taken -/

theorem jumpTo_ok (h : s.target v = .ok t) : jumpTo v s = .ok () { s with npc := some t } := by
  unfold jumpTo
  rw [bind_of_ok _ _ s s _ (look_apply _ s t h)]
  rfl

theorem jumpBy_ok (h : s.target (F64.add (F64.ofNat s.pc) v) = .ok t) :
    jumpBy v s = .ok () { s with npc := some t } := by
  unfold jumpBy
  rw [bind_of_ok _ _ s s _ (look_apply _ s t h)]
  rfl

theorem callTo_ok (h : s.target v = .ok t) :
    callTo v s = .ok () { s.writeCell .ra (F64.ofNat (s.pc + 1)) with npc := some t } := by
  unfold callTo
  rw [bind_of_ok _ _ s s _ (look_apply _ s t h)]
  rfl

theorem jumpTo_error (e : Exn) (h : s.target v = .error e) : jumpTo v s = .error e s := by
  unfold jumpTo
  rw [bind_of_error _ _ s s _ (look_error _ s _ h)]

theorem jumpBy_error (e : Exn) (h : s.target (F64.add (F64.ofNat s.pc) v) = .error e) :
    jumpBy v s = .error e s := by
  unfold jumpBy
  rw [bind_of_error _ _ s s _ (look_error _ s _ h)]

theorem callTo_error (e : Exn) (h : s.target v = .error e) : callTo v s = .error e s := by
  unfold callTo
  rw [bind_of_error _ _ s s _ (look_error _ s _ h)]

/-! ### Branches: the operands, the predicate, and the jump only when it holds -/

theorem branch1_eq (p : F64 → Bool) (go : F64 → M Unit) (a b : ValOp) (x : F64) (ha : s.value a = .ok x)
    (hb : s.value b = .ok v) : branch1 p go a b s = if p x then go v s else .ok () s := by
  unfold branch1
  rw [bind_of_ok _ _ s s _ (value_ok a s x ha), bind_of_ok _ _ s s _ (value_ok b s v hb)]
  split <;> rfl

theorem branch2_eq (p : F64 → F64 → Bool) (go : F64 → M Unit) (a b c : ValOp) (x y : F64) (ha : s.value a = .ok x)
    (hb : s.value b = .ok y) (hc : s.value c = .ok v) :
    branch2 p go a b c s = if p x y then go v s else .ok () s := by
  unfold branch2
  rw [bind_of_ok _ _ s s _ (value_ok a s x ha), bind_of_ok _ _ s s _ (value_ok b s y hb),
    bind_of_ok _ _ s s _ (value_ok c s v hc)]
  split <;> rfl

theorem branch3_eq (p : F64 → F64 → F64 → Bool) (go : F64 → M Unit) (a b c e : ValOp) (x y z : F64)
    (ha : s.value a = .ok x) (hb : s.value b = .ok y) (hc : s.value c = .ok z) (he : s.value e = .ok v) :
    branch3 p go a b c e s = if p x y z then go v s else .ok () s := by
  unfold branch3
  rw [bind_of_ok _ _ s s _ (value_ok a s x ha), bind_of_ok _ _ s s _ (value_ok b s y hb),
    bind_of_ok _ _ s s _ (value_ok c s z hc), bind_of_ok _ _ s s _ (value_ok e s v he)]
  split <;> rfl

theorem branchPin_eq (p : Option Handle → Bool) (go : F64 → M Unit) (d : PinOp) (a : ValOp) (pi : Pin)
    (h : Option Handle) (q : Port) (hp : s.pin d = .ok pi) (ha : s.port.askPin pi = (h, q)) (hv : s.value a = .ok v) :
    branchPin p go d a s = if p h then go v { s with port := q } else .ok () { s with port := q } := by
  unfold branchPin
  rw [bind_of_ok _ _ s _ _ (pin_answer d s pi _ q hp ha),
    bind_of_ok _ _ _ _ _ (value_ok a { s with port := q } v (by rw [(sameOperands_port s q).value, hv]))]
  split <;> rfl

/-- A computation that ends in a call, after a change of the port, is what `Links` says. -/
theorem links_of_call (q : Port) (m : M Unit)
    (hm : m s = .ok () { ({ s with port := q } : State).writeCell .ra (F64.ofNat (s.pc + 1)) with npc := some t }) :
    Links (perform m s) s t q := by
  rw [perform_ok _ _ _ hm]
  have so : SameOperands (({ s with port := q } : State).writeCell .ra (F64.ofNat (s.pc + 1)))
      { ({ s with port := q } : State).writeCell .ra (F64.ofNat (s.pc + 1)) with npc := some t } :=
    ⟨rfl, rfl, rfl, rfl, rfl, rfl, rfl⟩
  refine ⟨_, rfl, rfl, ?_, ?_, ?_, ?_⟩
  · rw [so.readCell]
    exact State.readCell_writeCell_same _ _ _ _ rfl
  · intro d h
    rw [so.readCell]
    exact State.readCell_writeCell_other _ _ _ _ (h .ra (by simp))
  · intro b
    simp
  · have h1 := State.sameButRegisters_writeCell { s with port := q } .ra (F64.ofNat (s.pc + 1))
    unfold SameButRegisters at *
    generalize State.writeCell { s with port := q } .ra _ = u at *
    cases u
    cases s
    simp_all

end Sys2Proof.Machine
end

