-- ==== Sys2Proof/Laws/Exec.lean ====
section
/-! SUPPORT. What any instruction can answer, said once over all of them. -/

namespace Sys2Proof.Machine

section

variable {R : State → State → Prop} (hR : Elementary R)

include hR

theorem keeps_devRead (h : Handle) (k : Key) : Keeps R (devRead h k) := keeps_readCall hR _
theorem keeps_devWrite (h : Handle) (k : Key) (v : F64) : Keeps R (devWrite h k v) := keeps_writeCall hR _
theorem keeps_devReadSlot (h : Handle) (i : F64) (k : Key) : Keeps R (devReadSlot h i k) := keeps_readCall hR _
theorem keeps_devWriteSlot (h : Handle) (i : F64) (k : Key) (v : F64) : Keeps R (devWriteSlot h i k v) :=
  keeps_writeCall hR _
theorem keeps_devReadReagent (h : Handle) (m : Key) (v : F64) : Keeps R (devReadReagent h m v) :=
  keeps_readCellCall hR _

theorem keeps_loadBatch (c : Cell) (t : F64) (n : Option F64) (m : BatchMode) (read : Handle → M F64)
    (hread : ∀ h, Keeps R (read h)) : Keeps R (loadBatch c t n m read) :=
  keeps_bind hR _ _ (keeps_resolveHash hR t n) fun hs => keeps_bind hR _ _ (keeps_readEach hR read hread hs) fun _ =>
    keeps_setCell hR c _

theorem keeps_storeBatch (t : F64) (n : Option F64) (write : Handle → M Unit) (hwrite : ∀ h, Keeps R (write h)) :
    Keeps R (storeBatch t n write) :=
  keeps_bind hR _ _ (keeps_resolveHash hR t n) fun hs => keeps_writeEach hR write hwrite hs

theorem keeps_jumpTo (v : F64) : Keeps R (jumpTo v) :=
  keeps_bind hR _ _ (keeps_look hR _) fun t => keeps_setNpc hR t

theorem keeps_callTo (v : F64) : Keeps R (callTo v) :=
  keeps_bind hR _ _ (keeps_look hR _) fun t =>
    keeps_bind hR _ _ (keeps_update _ fun s => hR.cell s _ _) fun _ => keeps_setNpc hR t

theorem keeps_jumpBy (v : F64) : Keeps R (jumpBy v) :=
  keeps_bind hR _ _ (keeps_look hR _) fun t => keeps_setNpc hR t

theorem keeps_choice (c : Bool) (m : M Unit) (hm : Keeps R m) : Keeps R (if c then m else pure ()) := by
  split
  · exact hm
  · exact keeps_pure hR ()

variable (go : F64 → M Unit) (hgo : ∀ v, Keeps R (go v))

include hgo

theorem keeps_branch1 (p : F64 → Bool) (a b : ValOp) : Keeps R (branch1 p go a b) :=
  keeps_bind hR _ _ (keeps_value hR a) fun _ => keeps_bind hR _ _ (keeps_value hR b) fun t => keeps_choice hR _ _ (hgo t)

theorem keeps_branch2 (p : F64 → F64 → Bool) (a b c : ValOp) : Keeps R (branch2 p go a b c) :=
  keeps_bind hR _ _ (keeps_value hR a) fun _ => keeps_bind hR _ _ (keeps_value hR b) fun _ =>
    keeps_bind hR _ _ (keeps_value hR c) fun t => keeps_choice hR _ _ (hgo t)

theorem keeps_branch3 (p : F64 → F64 → F64 → Bool) (a b c e : ValOp) : Keeps R (branch3 p go a b c e) :=
  keeps_bind hR _ _ (keeps_value hR a) fun _ => keeps_bind hR _ _ (keeps_value hR b) fun _ =>
    keeps_bind hR _ _ (keeps_value hR c) fun _ => keeps_bind hR _ _ (keeps_value hR e) fun t =>
      keeps_choice hR _ _ (hgo t)

theorem keeps_branchPin (p : Option Handle → Bool) (d : PinOp) (a : ValOp) : Keeps R (branchPin p go d a) :=
  keeps_bind hR _ _ (keeps_pin hR d) fun _ => keeps_bind hR _ _ (keeps_value hR a) fun t =>
    keeps_choice hR _ _ (hgo t)

end

/-- Whatever the instruction, a next state is reached by elementary changes, or it is the fatal entry that keeps only
the device port of what such changes reached. The four instructions that write a table or the status make their own
change. -/
theorem exec_cases {R : State → State → Prop} (hR : Elementary R) (i : Instr) (s u : State)
    (hy : i = .yield → R s { s with status := .yielded }) (hsl : ∀ a d, i = .sleep a → R s (s.sleepFor d))
    (ha : ∀ n t, i = .aliasOp n t → R s { s with aliases := bindIn s.aliases n t })
    (hd : ∀ n v, i = .define n v → R s { s with defines := bindIn s.defines n v })
    (h : exec i s = .next u) : R s u ∨ ∃ e t, R s t ∧ u = { s with port := t.port }.fatal e := by
  cases i
  case define n v =>
    left
    obtain rfl := (Host.Outcome.next.inj h).symm
    dsimp only
    split
    · exact hd n v rfl
    · exact hR.refl s
  case yield =>
    left
    obtain rfl := (Host.Outcome.next.inj h).symm
    exact hy rfl
  case aliasOp n t =>
    left
    obtain rfl := (Host.Outcome.next.inj h).symm
    exact ha n t rfl
  case sleep a =>
    cases hv : s.value a with
    | ok v =>
      left
      have h' : exec (.sleep a) s = .next (s.sleepFor (sleepTime v)) :=
        perform_ok _ s _ (by rw [bind_of_ok _ _ s s v (value_ok a s v hv)]; rfl)
      obtain rfl := Host.Outcome.next.inj (h'.symm.trans h)
      exact hsl a _ rfl
    | error e =>
      rcases perform_next _ s u h with h | ⟨e', t, h, hu⟩
      · rw [bind_of_error _ _ s s e (value_error a s e hv)] at h; cases h
      · rw [bind_of_error _ _ s s e (value_error a s e hv)] at h
        injection h with _ ht
        exact .inr ⟨e', t, ht ▸ hR.refl s, hu⟩
  case abs | acos | asin | atan | ceil | cos | exp | floor | log | move | round | sin | sqrt | tan | trunc
    | not | seqz | sgez | sgtz | slez | sltz | snan | snanz | snez =>
    exact performed _ (keeps_unary hR _ _ _) s u h
  case add | atan2 | div | max | min | mod | mul | sub | and | nor | or | sla | sll | sra | srl | xor |
    sapz | seq | sge | sgt | sle | slt | snaz | sne =>
    exact performed _ (keeps_binary hR _ _ _ _) s u h
  case sap | select | sna =>
    exact performed _ (keeps_ternary hR _ _ _ _ _) s u h
  case nop | label =>
    simp only [exec, execNop, execLabel] at h
    exact performed _ (keeps_pure hR ()) s u h
  case hcf =>
    simp only [exec, execHcf] at h
    exact performed _ (keeps_raise hR _) s u h
  case rand =>
    exact performed _ (keeps_bind hR _ _ (keeps_dest hR _) fun _ => keeps_bind hR _ _ (keeps_ask hR _ fun p =>
      p.nextDraw_grows) fun _ => keeps_setCell hR _ _) s u h
  case push =>
    exact performed _ (keeps_bind hR _ _ (keeps_value hR _) fun _ => keeps_writeAt hR _ _ _ fun _ => keeps_setCell hR _ _) s u h
  case poke =>
    exact performed _ (keeps_bind hR _ _ (keeps_value hR _) fun x => keeps_bind hR _ _ (keeps_value hR _) fun v =>
      keeps_writeAt hR (fun _ => x) v (fun _ => pure ()) fun _ => keeps_pure hR ()) s u h
  case pop =>
    exact performed _ (keeps_bind hR _ _ (keeps_dest hR _) fun _ => keeps_bind hR _ _ (keeps_look hR _) fun _ =>
      keeps_bind hR _ _ (keeps_look hR _) fun _ => keeps_bind hR _ _ (keeps_setCell hR _ _) fun _ =>
      keeps_setCell hR _ _) s u h
  case peek =>
    exact performed _ (keeps_bind hR _ _ (keeps_dest hR _) fun _ => keeps_bind hR _ _ (keeps_look hR _) fun _ =>
      keeps_bind hR _ _ (keeps_look hR _) fun _ => keeps_setCell hR _ _) s u h
  case j =>
    exact performed _ (keeps_bind hR _ _ (keeps_value hR _) fun _ => keeps_jumpTo hR _) s u h
  case jal =>
    exact performed _ (keeps_bind hR _ _ (keeps_value hR _) fun _ => keeps_callTo hR _) s u h
  case jr =>
    exact performed _ (keeps_bind hR _ _ (keeps_value hR _) fun _ => keeps_jumpBy hR _) s u h
  case beqz | bgez | bgtz | blez | bltz | bnez | bnan =>
    exact performed _ (keeps_branch1 hR _ (keeps_jumpTo hR) _ _ _) s u h
  case beq | bge | bgt | ble | blt | bne | bapz | bnaz =>
    exact performed _ (keeps_branch2 hR _ (keeps_jumpTo hR) _ _ _ _) s u h
  case bap | bna =>
    exact performed _ (keeps_branch3 hR _ (keeps_jumpTo hR) _ _ _ _ _) s u h
  case bdse | bdns =>
    exact performed _ (keeps_branchPin hR _ (keeps_jumpTo hR) _ _ _) s u h
  case beqzal | bgezal | bgtzal | blezal | bltzal | bnezal =>
    exact performed _ (keeps_branch1 hR _ (keeps_callTo hR) _ _ _) s u h
  case beqal | bgeal | bgtal | bleal | bltal | bneal | bapzal | bnazal =>
    exact performed _ (keeps_branch2 hR _ (keeps_callTo hR) _ _ _ _) s u h
  case bapal | bnaal =>
    exact performed _ (keeps_branch3 hR _ (keeps_callTo hR) _ _ _ _ _) s u h
  case bdseal | bdnsal =>
    exact performed _ (keeps_branchPin hR _ (keeps_callTo hR) _ _ _) s u h
  case breqz | brgez | brgtz | brlez | brltz | brnez | brnan =>
    exact performed _ (keeps_branch1 hR _ (keeps_jumpBy hR) _ _ _) s u h
  case breq | brge | brgt | brle | brlt | brne | brapz | brnaz =>
    exact performed _ (keeps_branch2 hR _ (keeps_jumpBy hR) _ _ _ _) s u h
  case brap | brna =>
    exact performed _ (keeps_branch3 hR _ (keeps_jumpBy hR) _ _ _ _ _) s u h
  case brdse | brdns =>
    exact performed _ (keeps_branchPin hR _ (keeps_jumpBy hR) _ _ _) s u h
  case l =>
    exact performed _ (keeps_bind hR _ _ (keeps_dest hR _) fun _ => keeps_bind hR _ _ (keeps_pin hR _) fun _ => keeps_bind
      hR _ _ (keeps_key hR _) fun _ => keeps_bind hR _ _ (keeps_need hR _) fun _ => keeps_bind hR _ _
      (keeps_devRead hR _ _) fun _ => keeps_setCell hR _ _) s u h
  case s =>
    exact performed _ (keeps_bind hR _ _ (keeps_pin hR _) fun _ => keeps_bind hR _ _ (keeps_key hR _) fun _ => keeps_bind
      hR _ _ (keeps_value hR _) fun _ => keeps_bind hR _ _ (keeps_need hR _) fun _ => keeps_devWrite hR _
      _ _) s u h
  case ls =>
    exact performed _ (keeps_bind hR _ _ (keeps_dest hR _) fun _ => keeps_bind hR _ _ (keeps_pin hR _) fun _ => keeps_bind
      hR _ _ (keeps_value hR _) fun _ => keeps_bind hR _ _ (keeps_key hR _) fun _ => keeps_bind hR _ _
      (keeps_need hR _) fun _ => keeps_bind hR _ _ (keeps_devReadSlot hR _ _ _) fun _ => keeps_setCell hR
      _ _) s u h
  case ss =>
    exact performed _ (keeps_bind hR _ _ (keeps_pin hR _) fun _ => keeps_bind hR _ _ (keeps_value hR _) fun _ => keeps_bind
      hR _ _ (keeps_key hR _) fun _ => keeps_bind hR _ _ (keeps_value hR _) fun _ => keeps_bind hR _ _
      (keeps_need hR _) fun _ => keeps_devWriteSlot hR _ _ _ _) s u h
  case lr =>
    exact performed _ (keeps_bind hR _ _ (keeps_dest hR _) fun _ => keeps_bind hR _ _ (keeps_pin hR _) fun _ => keeps_bind
      hR _ _ (keeps_key hR _) fun _ => keeps_bind hR _ _ (keeps_value hR _) fun _ => keeps_bind hR _ _
      (keeps_need hR _) fun _ => keeps_bind hR _ _ (keeps_devReadReagent hR _ _ _) fun _ => keeps_setCell
      hR _ _) s u h
  case ld =>
    exact performed _ (keeps_bind hR _ _ (keeps_dest hR _) fun _ => keeps_bind hR _ _ (keeps_value hR _) fun _ =>
      keeps_bind hR _ _ (keeps_key hR _) fun _ => keeps_bind hR _ _ (keeps_resolveId hR _) fun _ =>
      keeps_bind hR _ _ (keeps_need hR _) fun _ => keeps_bind hR _ _ (keeps_devRead hR _ _) fun _ =>
      keeps_setCell hR _ _) s u h
  case sd =>
    exact performed _ (keeps_bind hR _ _ (keeps_value hR _) fun _ => keeps_bind hR _ _ (keeps_key hR _) fun _ => keeps_bind
      hR _ _ (keeps_value hR _) fun _ => keeps_bind hR _ _ (keeps_resolveId hR _) fun _ => keeps_bind hR _
      _ (keeps_need hR _) fun _ => keeps_devWrite hR _ _ _) s u h
  case get =>
    exact performed _ (keeps_bind hR _ _ (keeps_dest hR _) fun _ => keeps_bind hR _ _ (keeps_pin hR _) fun _ => keeps_bind
      hR _ _ (keeps_value hR _) fun _ => keeps_bind hR _ _ (keeps_need hR _) fun _ => keeps_bind hR _ _
      (keeps_devReadMem hR _ _) fun _ => keeps_setCell hR _ _) s u h
  case put =>
    exact performed _ (keeps_bind hR _ _ (keeps_pin hR _) fun _ => keeps_bind hR _ _ (keeps_value hR _) fun _ => keeps_bind
      hR _ _ (keeps_value hR _) fun _ => keeps_bind hR _ _ (keeps_need hR _) fun _ => keeps_devWriteMem hR
      _ _ _) s u h
  case getd =>
    exact performed _ (keeps_bind hR _ _ (keeps_dest hR _) fun _ => keeps_bind hR _ _ (keeps_value hR _) fun _ =>
      keeps_bind hR _ _ (keeps_value hR _) fun _ => keeps_bind hR _ _ (keeps_resolveId hR _) fun _ =>
      keeps_bind hR _ _ (keeps_need hR _) fun _ => keeps_bind hR _ _ (keeps_devReadMem hR _ _) fun _ =>
      keeps_setCell hR _ _) s u h
  case putd =>
    exact performed _ (keeps_bind hR _ _ (keeps_value hR _) fun _ => keeps_bind hR _ _ (keeps_value hR _) fun _ =>
      keeps_bind hR _ _ (keeps_value hR _) fun _ => keeps_bind hR _ _ (keeps_resolveId hR _) fun _ =>
      keeps_bind hR _ _ (keeps_need hR _) fun _ => keeps_devWriteMem hR _ _ _) s u h
  case clr =>
    exact performed _ (keeps_bind hR _ _ (keeps_pin hR _) fun _ => keeps_bind hR _ _ (keeps_need hR _) fun _ =>
      keeps_devClearMem hR _) s u h
  case clrd =>
    exact performed _ (keeps_bind hR _ _ (keeps_value hR _) fun _ => keeps_bind hR _ _ (keeps_resolveId hR _) fun _ =>
      keeps_bind hR _ _ (keeps_need hR _) fun _ => keeps_devClearMem hR _) s u h
  case sdse =>
    exact performed _ (keeps_bind hR _ _ (keeps_dest hR _) fun _ => keeps_bind hR _ _ (keeps_pin hR _) fun _ =>
      keeps_setCell hR _ _) s u h
  case sdns =>
    exact performed _ (keeps_bind hR _ _ (keeps_dest hR _) fun _ => keeps_bind hR _ _ (keeps_pin hR _) fun _ =>
      keeps_setCell hR _ _) s u h
  case lb =>
    exact performed _ (keeps_bind hR _ _ (keeps_dest hR _) fun _ => keeps_bind hR _ _ (keeps_value hR _) fun _ =>
      keeps_bind hR _ _ (keeps_key hR _) fun _ => keeps_bind hR _ _ (keeps_mode hR _) fun _ =>
      keeps_loadBatch hR _ _ _ _ _ fun _ => keeps_devRead hR _ _) s u h
  case lbn =>
    exact performed _ (keeps_bind hR _ _ (keeps_dest hR _) fun _ => keeps_bind hR _ _ (keeps_value hR _) fun _ =>
      keeps_bind hR _ _ (keeps_value hR _) fun _ => keeps_bind hR _ _ (keeps_key hR _) fun _ => keeps_bind
      hR _ _ (keeps_mode hR _) fun _ => keeps_loadBatch hR _ _ _ _ _ fun _ => keeps_devRead hR _ _) s u h
  case lbs =>
    exact performed _ (keeps_bind hR _ _ (keeps_dest hR _) fun _ => keeps_bind hR _ _ (keeps_value hR _) fun _ =>
      keeps_bind hR _ _ (keeps_value hR _) fun _ => keeps_bind hR _ _ (keeps_key hR _) fun _ => keeps_bind
      hR _ _ (keeps_mode hR _) fun _ => keeps_loadBatch hR _ _ _ _ _ fun _ => keeps_devReadSlot hR _ _ _) s u h
  case lbns =>
    exact performed _ (keeps_bind hR _ _ (keeps_dest hR _) fun _ => keeps_bind hR _ _ (keeps_value hR _) fun _ =>
      keeps_bind hR _ _ (keeps_value hR _) fun _ => keeps_bind hR _ _ (keeps_value hR _) fun _ =>
      keeps_bind hR _ _ (keeps_key hR _) fun _ => keeps_bind hR _ _ (keeps_mode hR _) fun _ =>
      keeps_loadBatch hR _ _ _ _ _ fun _ => keeps_devReadSlot hR _ _ _) s u h
  case sb =>
    exact performed _ (keeps_bind hR _ _ (keeps_value hR _) fun _ => keeps_bind hR _ _ (keeps_key hR _) fun _ => keeps_bind
      hR _ _ (keeps_value hR _) fun _ => keeps_storeBatch hR _ _ _ fun _ => keeps_devWrite hR _ _ _) s u h
  case sbn =>
    exact performed _ (keeps_bind hR _ _ (keeps_value hR _) fun _ => keeps_bind hR _ _ (keeps_value hR _) fun _ =>
      keeps_bind hR _ _ (keeps_key hR _) fun _ => keeps_bind hR _ _ (keeps_value hR _) fun _ =>
      keeps_storeBatch hR _ _ _ fun _ => keeps_devWrite hR _ _ _) s u h
  case sbs =>
    exact performed _ (keeps_bind hR _ _ (keeps_value hR _) fun _ => keeps_bind hR _ _ (keeps_value hR _) fun _ =>
      keeps_bind hR _ _ (keeps_key hR _) fun _ => keeps_bind hR _ _ (keeps_value hR _) fun _ =>
      keeps_storeBatch hR _ _ _ fun _ => keeps_devWriteSlot hR _ _ _ _) s u h

/-- Every instruction is a performed computation. -/
theorem exec_perform (i : Instr) : ∃ m : State → M Unit, ∀ s, exec i s = perform (m s) s := by
  cases i
  case nop => exact ⟨fun _ => pure (), fun s => by simp only [exec, execNop]⟩
  case label d n => exact ⟨fun _ => pure (), fun s => by simp only [exec, execLabel]⟩
  case hcf => exact ⟨fun _ => raise .halt, fun s => by simp only [exec, execHcf]⟩
  case yield => exact ⟨fun _ => update _, fun s => by simp only [exec, execYield]; rfl⟩
  case aliasOp n t => exact ⟨fun _ => update _, fun s => by simp only [exec, execAliasOp]; rfl⟩
  case define n v => exact ⟨fun _ => update _, fun s => by simp only [exec, execDefine]; rfl⟩
  all_goals exact ⟨_, fun _ => rfl⟩

end Sys2Proof.Machine
end

