-- ==== Sys2Proof/Laws/Memory.lean ====
section
/-! SUPPORT. The stack memory: reads after writes, and the canonical form that every operation keeps. -/

namespace Sys2Proof.Machine

/-! ### Reads -/

theorem Memory.read_below (m : Memory) (low a : Nat) (h : m.wfFrom low = true) (ha : a < low) :
    m.read a = Memory.unlisted := by
  induction m generalizing low with
  | nil => rfl
  | cons e rest ih =>
    obtain ⟨b, w⟩ := e
    simp only [Memory.wfFrom, Bool.and_eq_true, decide_eq_true_eq] at h
    have hne : a ≠ b := by omega
    simp only [Memory.read, hne, if_false]
    exact ih (b + 1) h.2 (by omega)

theorem Memory.read_write_same (m : Memory) (low a : Nat) (v : F64) (h : m.wfFrom low = true) :
    (m.write a v).read a = v := by
  induction m generalizing low with
  | nil =>
    by_cases hv : v = Memory.unlisted
    · simp [Memory.write, Memory.read, hv]
    · simp [Memory.write, Memory.read, hv]
  | cons e rest ih =>
    obtain ⟨b, w⟩ := e
    have hr := h
    simp only [Memory.wfFrom, Bool.and_eq_true, decide_eq_true_eq] at hr
    by_cases hlt : a < b
    · have hne : a ≠ b := by omega
      by_cases hv : v = Memory.unlisted
      · simp [Memory.write, hlt, hv, Memory.read, hne, Memory.read_below rest (b + 1) a hr.2 (by omega)]
      · simp [Memory.write, hlt, hv, Memory.read]
    · by_cases heq : a = b
      · subst heq
        by_cases hv : v = Memory.unlisted
        · simp [Memory.write, hv, Memory.read_below rest (a + 1) a hr.2 (by omega)]
        · simp [Memory.write, hv, Memory.read]
      · simp [Memory.write, hlt, heq, Memory.read, ih (b + 1) hr.2]

theorem Memory.read_write_other (m : Memory) (a b : Nat) (v : F64) (h : b ≠ a) :
    (m.write a v).read b = m.read b := by
  induction m with
  | nil =>
    by_cases hv : v = Memory.unlisted <;> simp [Memory.write, Memory.read, hv, h]
  | cons e rest ih =>
    obtain ⟨c, w⟩ := e
    simp only [Memory.write]
    split
    · split <;> simp [Memory.read, h]
    · split
      · next heq => subst heq; split <;> simp [Memory.read, h]
      · simp [Memory.read, ih]

/-! ### The canonical form -/

theorem Memory.wfFrom_mono (m : Memory) (low high : Nat) (h : low ≤ high) (w : m.wfFrom high = true) :
    m.wfFrom low = true := by
  cases m with
  | nil => rfl
  | cons e rest =>
    obtain ⟨a, v⟩ := e
    simp only [Memory.wfFrom, Bool.and_eq_true, decide_eq_true_eq] at w ⊢
    exact ⟨⟨⟨by omega, w.1.1.2⟩, w.1.2⟩, w.2⟩

theorem Memory.write_wfFrom (m : Memory) (low a : Nat) (v : F64) (hl : low ≤ a) (ha : a < stackCapacity)
    (h : m.wfFrom low = true) : (m.write a v).wfFrom low = true := by
  induction m generalizing low with
  | nil =>
    by_cases hv : v = Memory.unlisted <;> simp [Memory.write, Memory.wfFrom, hv, hl, ha]
  | cons e rest ih =>
    obtain ⟨b, w⟩ := e
    have hr := h
    simp only [Memory.wfFrom, Bool.and_eq_true, decide_eq_true_eq] at hr
    simp only [Memory.write]
    split
    · split
      · exact h
      · next hv =>
        simp only [Memory.wfFrom, Bool.and_eq_true, decide_eq_true_eq]
        exact ⟨⟨⟨hl, ha⟩, hv⟩, ⟨⟨⟨by omega, hr.1.1.2⟩, hr.1.2⟩, hr.2⟩⟩
    · split
      · next heq =>
        subst heq
        split
        · exact Memory.wfFrom_mono rest low (a + 1) (by omega) hr.2
        · next hv =>
          simp only [Memory.wfFrom, Bool.and_eq_true, decide_eq_true_eq]
          exact ⟨⟨⟨hl, ha⟩, hv⟩, hr.2⟩
      · simp only [Memory.wfFrom, Bool.and_eq_true, decide_eq_true_eq]
        exact ⟨hr.1, ih (b + 1) (by omega) hr.2⟩

/-- A write below the capacity keeps the canonical form. -/
theorem Memory.write_wf (m : Memory) (a : Nat) (v : F64) (ha : a < stackCapacity) (h : m.wf = true) :
    (m.write a v).wf = true :=
  Memory.write_wfFrom m 0 a v (Nat.zero_le a) ha h

/-- Restoring cells one by one keeps the canonical form. -/
theorem Memory.writeCells_wf (cells : List (Nat × F64)) (m : Memory) (h : m.wf = true) :
    (m.writeCells cells).wf = true := by
  induction cells generalizing m with
  | nil => exact h
  | cons e rest ih =>
    obtain ⟨a, v⟩ := e
    refine ih _ ?_
    split
    · next ha => exact Memory.write_wf m a v ha h
    · exact h

/-- The cleared stack is canonical. -/
theorem Memory.nil_wf : Memory.wf [] = true := rfl

/-- The stack memory at reset is canonical. -/
theorem State.reset_stack_wf : State.reset.stack.wf = true := rfl

/-- The stack memory after `reset()` is canonical. -/
theorem State.restart_stack_wf (s : State) : s.restart.stack.wf = true := rfl

/-! ### Equal reads, equal memories -/

theorem Memory.ext_from (m n : Memory) (low : Nat) (hm : m.wfFrom low = true) (hn : n.wfFrom low = true)
    (h : ∀ a, m.read a = n.read a) : m = n := by
  induction m generalizing n low with
  | nil =>
    cases n with
    | nil => rfl
    | cons e rest =>
      obtain ⟨b, w⟩ := e
      simp only [Memory.wfFrom, Bool.and_eq_true, decide_eq_true_eq] at hn
      have := h b
      simp [Memory.read] at this
      exact absurd this.symm hn.1.2
  | cons e rest ih =>
    obtain ⟨a, v⟩ := e
    simp only [Memory.wfFrom, Bool.and_eq_true, decide_eq_true_eq] at hm
    cases n with
    | nil =>
      have := h a
      simp [Memory.read] at this
      exact absurd this hm.1.2
    | cons f more =>
      obtain ⟨b, w⟩ := f
      simp only [Memory.wfFrom, Bool.and_eq_true, decide_eq_true_eq] at hn
      have hab : a = b := by
        rcases Nat.lt_trichotomy a b with hlt | heq | hgt
        · have := h a
          have hne : a ≠ b := by omega
          simp only [Memory.read, if_true, hne, if_false] at this
          rw [Memory.read_below more (b + 1) a hn.2 (by omega)] at this
          exact absurd this hm.1.2
        · exact heq
        · have := h b
          have hne : b ≠ a := by omega
          simp only [Memory.read, if_true, hne, if_false] at this
          rw [Memory.read_below rest (a + 1) b hm.2 (by omega)] at this
          exact absurd this.symm hn.1.2
      subst hab
      have hvw : v = w := by simpa [Memory.read] using h a
      subst hvw
      have : rest = more := by
        refine ih more (a + 1) hm.2 hn.2 fun c => ?_
        by_cases hca : c = a
        · subst hca
          rw [Memory.read_below rest _ _ hm.2 (by omega), Memory.read_below more _ _ hn.2 (by omega)]
        · simpa [Memory.read, hca] using h c
      rw [this]

/-- Canonical memories that read alike are equal. -/
theorem Memory.eq_of_reads (m n : Memory) (hm : m.wf = true) (hn : n.wf = true) (h : ∀ a, m.read a = n.read a) :
    m = n :=
  Memory.ext_from m n 0 hm hn h

end Sys2Proof.Machine
end

