-- ==== Sys2Proof/Laws/Order.lean ====
section
/-! SUPPORT. The order in which an instruction resolves its operands (30_encoding.md R328; 60_exceptions.md R1112): a
computation that resolves a list of operands first ends in the first failure of that list. -/

namespace Sys2Proof.Machine

/-- Whatever operand of `l` fails first, resolved from a state that agrees with `s` but for the device port, the
computation ends in its failure, with the device port it left. -/
def Resolves (s : State) (l : List (Slot × Operand)) (m : M Unit) : Prop :=
  ∀ p e q, s.firstFailure l p = some (e, q) → m { s with port := p } = .error e { s with port := q }

theorem resolves_nil (s : State) (m : M Unit) : Resolves s [] m := fun _ _ _ h => nomatch h

@[simp] theorem Operand.toRegOp_ofRegOp (r : RegOp) : (Operand.ofRegOp r).toRegOp = some r := by cases r <;> rfl
@[simp] theorem Operand.toValOp_ofValOp (a : ValOp) : (Operand.ofValOp a).toValOp = some a := by cases a <;> rfl
@[simp] theorem Operand.toPinOp_ofPinOp (d : PinOp) : (Operand.ofPinOp d).toPinOp = some d := by cases d <;> rfl
@[simp] theorem Operand.toKeyOp_ofKeyOp (k : KeyOp) : (Operand.ofKeyOp k).toKeyOp = some k := by
  rcases k with _ | _ | _ | _ <;> rfl
@[simp] theorem Operand.toModeOp_ofModeOp (m : ModeOp) : (Operand.ofModeOp m).toModeOp = some m := by
  rcases m with _ | _ | _ | _ <;> rfl

section

variable {α : Type} (s : State) (l : List (Slot × Operand)) (f : α → M Unit)

/-- An operand whose resolution `get` only reads the state, in a slot that leaves the device port alone. -/
theorem resolves_look (slot : Slot) (o : Operand) (get : State → Except Exn α)
    (hget : ∀ p, get { s with port := p } = get s) (hfail : s.operandFailure slot o = failureOf (get s))
    (hport : ∀ p, s.portAfter slot o p = p) (hf : ∀ a, Resolves s l (f a)) :
    Resolves s ((slot, o) :: l) (look get >>= f) := by
  intro p e q h
  unfold State.firstFailure at h
  rw [hfail, hport] at h
  cases hg : get s with
  | ok a =>
    rw [bind_of_ok _ f _ { s with port := p } a (look_apply _ _ _ ((hget p).trans hg))]
    rw [hg] at h
    exact hf a p e q h
  | error e' =>
    rw [hg] at h
    simp only [failureOf, Option.some.injEq, Prod.mk.injEq] at h
    obtain ⟨rfl, rfl⟩ := h
    exact bind_of_error _ f _ _ _ (look_error _ _ _ ((hget p).trans hg))

theorem resolves_value (a : ValOp) (f : F64 → M Unit) (hf : ∀ x, Resolves s l (f x)) :
    Resolves s ((.val, .ofValOp a) :: l) (value a >>= f) :=
  resolves_look s l f _ _ (·.value a) (fun p => (sameOperands_port s p).value a) (by simp [State.operandFailure])
    (fun _ => rfl) hf

theorem resolves_dest (r : RegOp) (f : Cell → M Unit) (hf : ∀ c, Resolves s l (f c)) :
    Resolves s ((.reg, .ofRegOp r) :: l) (dest r >>= f) :=
  resolves_look s l f _ _ (·.dest r) (fun p => (sameOperands_port s p).dest r) (by simp [State.operandFailure])
    (fun _ => rfl) hf

theorem resolves_mode (m : ModeOp) (f : BatchMode → M Unit) (hf : ∀ x, Resolves s l (f x)) :
    Resolves s ((.bm, .ofModeOp m) :: l) (mode m >>= f) :=
  resolves_look s l f _ _ (·.mode m) (fun p => (sameOperands_port s p).mode m) (by simp [State.operandFailure])
    (fun _ => rfl) hf

theorem resolves_key (slot : Slot) (hs : slot = .lt ∨ slot = .slt ∨ slot = .rm) (k : KeyOp) (f : Key → M Unit)
    (hf : ∀ x, Resolves s l (f x)) : Resolves s ((slot, .ofKeyOp k) :: l) (key k >>= f) :=
  resolves_look s l f _ _ (·.key k) (fun p => (sameOperands_port s p).key k)
    (by rcases hs with rfl | rfl | rfl <;> simp [State.operandFailure])
    (fun _ => by rcases hs with rfl | rfl | rfl <;> rfl) hf

/-- A pin asks the host for its handle. -/
theorem resolves_pin (d : PinOp) (f : Option Handle → M Unit) (hf : ∀ h, Resolves s l (f h)) :
    Resolves s ((.pin, .ofPinOp d) :: l) (pin d >>= f) := by
  intro p e q h
  simp only [State.firstFailure, State.operandFailure, State.portAfter, Operand.toPinOp_ofPinOp, Option.bind_some,
    Option.map_some] at h
  have hs : ({ s with port := p } : State).pin d = s.pin d := (sameOperands_port s p).pin d
  cases hd : s.pin d with
  | ok i =>
    rw [bind_of_ok _ f _ _ _ (pin_ok d _ i (hs.trans hd))]
    rw [hd] at h
    exact hf _ _ e q h
  | error e' =>
    rw [hd] at h
    simp only [failureOf, Option.some.injEq, Prod.mk.injEq] at h
    obtain ⟨rfl, rfl⟩ := h
    exact bind_of_error _ f _ _ _ (pin_error d _ _ (hs.trans hd))

end

/-! ### The templates -/

theorem resolves_unary (s : State) (f : F64 → F64) (r : RegOp) (a : ValOp) :
    Resolves s [(.reg, .ofRegOp r), (.val, .ofValOp a)] (unary f r a) :=
  resolves_dest s _ r _ fun _ => resolves_value s _ a _ fun _ => resolves_nil s _

theorem resolves_binary (s : State) (f : F64 → F64 → F64) (r : RegOp) (a b : ValOp) :
    Resolves s [(.reg, .ofRegOp r), (.val, .ofValOp a), (.val, .ofValOp b)] (binary f r a b) :=
  resolves_dest s _ r _ fun _ => resolves_value s _ a _ fun _ => resolves_value s _ b _ fun _ => resolves_nil s _

theorem resolves_ternary (s : State) (f : F64 → F64 → F64 → F64) (r : RegOp) (a b c : ValOp) :
    Resolves s [(.reg, .ofRegOp r), (.val, .ofValOp a), (.val, .ofValOp b), (.val, .ofValOp c)] (ternary f r a b c) :=
  resolves_dest s _ r _ fun _ => resolves_value s _ a _ fun _ => resolves_value s _ b _ fun _ =>
    resolves_value s _ c _ fun _ => resolves_nil s _

theorem resolves_branch1 (s : State) (p : F64 → Bool) (go : F64 → M Unit) (a b : ValOp) :
    Resolves s [(.val, .ofValOp a), (.val, .ofValOp b)] (branch1 p go a b) :=
  resolves_value s _ a _ fun _ => resolves_value s _ b _ fun _ => resolves_nil s _

theorem resolves_branch2 (s : State) (p : F64 → F64 → Bool) (go : F64 → M Unit) (a b c : ValOp) :
    Resolves s [(.val, .ofValOp a), (.val, .ofValOp b), (.val, .ofValOp c)] (branch2 p go a b c) :=
  resolves_value s _ a _ fun _ => resolves_value s _ b _ fun _ => resolves_value s _ c _ fun _ => resolves_nil s _

theorem resolves_branch3 (s : State) (p : F64 → F64 → F64 → Bool) (go : F64 → M Unit) (a b c e : ValOp) :
    Resolves s [(.val, .ofValOp a), (.val, .ofValOp b), (.val, .ofValOp c), (.val, .ofValOp e)] (branch3 p go a b c e) :=
  resolves_value s _ a _ fun _ => resolves_value s _ b _ fun _ => resolves_value s _ c _ fun _ =>
    resolves_value s _ e _ fun _ => resolves_nil s _

theorem resolves_branchPin (s : State) (p : Option Handle → Bool) (go : F64 → M Unit) (d : PinOp) (a : ValOp) :
    Resolves s [(.pin, .ofPinOp d), (.val, .ofValOp a)] (branchPin p go d a) :=
  resolves_pin s _ d _ fun _ => resolves_value s _ a _ fun _ => resolves_nil s _

/-- What an instruction's outcome is when its computation resolves its operands in order. -/
theorem perform_resolves (s : State) (l : List (Slot × Operand)) (m : M Unit) (hm : Resolves s l m) (p : Port) :
    (∀ e, s.firstFailure l s.port = some (.raised e, p) → Raises (perform m s) s e p) ∧
    (∀ f, s.firstFailure l s.port = some (.stopped f, p) → perform m s = .fault f) := by
  refine ⟨fun e h => ?_, fun f h => ?_⟩
  · have := hm _ _ _ h
    unfold Raises perform
    rw [show m s = _ from this]
    rfl
  · have := hm _ _ _ h
    unfold perform
    rw [show m s = _ from this]

end Sys2Proof.Machine
end

