-- ==== Sys2Proof/Laws/PerInstr.lean ====
section
/-! SUPPORT. The per-instruction family `RecordRoundTrip`: the decoded record of every instruction, its tag and its
operand descriptors (30_encoding.md R310, R312), determines the instruction. -/

namespace Sys2Proof

/-! ### Descriptors of typed operands are read back -/

@[simp] theorem Operand.toRegOp_ofRegOp (o : RegOp) : (Operand.ofRegOp o).toRegOp = some o := by cases o <;> rfl
@[simp] theorem Operand.toValOp_ofValOp (o : ValOp) : (Operand.ofValOp o).toValOp = some o := by cases o <;> rfl
@[simp] theorem Operand.toPinOp_ofPinOp (o : PinOp) : (Operand.ofPinOp o).toPinOp = some o := by cases o <;> rfl
@[simp] theorem Operand.toTarget_ofTarget (o : Target) : (Operand.ofTarget o).toTarget = some o := by
  cases o <;> rfl
@[simp] theorem Operand.toKeyOp_ofKeyOp (o : KeyOp) : (Operand.ofKeyOp o).toKeyOp = some o := by
  cases o with
  | key s => rfl
  | val v => cases v <;> rfl
@[simp] theorem Operand.toModeOp_ofModeOp (o : ModeOp) : (Operand.ofModeOp o).toModeOp = some o := by
  cases o with
  | mode m => rfl
  | val v => cases v <;> rfl

namespace Build

theorem take_cons {α : Type} (conv : Operand → Option α) (k : α → Rest) (o : Operand) (os : List Operand) (a : α)
    (h : conv o = some a) : take conv k (o :: os) = k a os := by
  simp [take, h]

@[simp] theorem withReg_cons (k : RegOp → Rest) (o : RegOp) (os : List Operand) :
    withReg k (Operand.ofRegOp o :: os) = k o os := take_cons _ k _ os o (by simp)
@[simp] theorem withVal_cons (k : ValOp → Rest) (o : ValOp) (os : List Operand) :
    withVal k (Operand.ofValOp o :: os) = k o os := take_cons _ k _ os o (by simp)
@[simp] theorem withPin_cons (k : PinOp → Rest) (o : PinOp) (os : List Operand) :
    withPin k (Operand.ofPinOp o :: os) = k o os := take_cons _ k _ os o (by simp)
@[simp] theorem withKey_cons (k : KeyOp → Rest) (o : KeyOp) (os : List Operand) :
    withKey k (Operand.ofKeyOp o :: os) = k o os := take_cons _ k _ os o (by simp)
@[simp] theorem withMode_cons (k : ModeOp → Rest) (o : ModeOp) (os : List Operand) :
    withMode k (Operand.ofModeOp o :: os) = k o os := take_cons _ k _ os o (by simp)
@[simp] theorem withTarget_cons (k : Target → Rest) (o : Target) (os : List Operand) :
    withTarget k (Operand.ofTarget o :: os) = k o os := take_cons _ k _ os o (by simp)
@[simp] theorem withNewName_cons (k : Ident → Rest) (s : Ident) (os : List Operand) :
    withNewName k (.newName s :: os) = k s os := rfl
@[simp] theorem withNum_cons (k : F64 → Rest) (v : F64) (os : List Operand) :
    withNum k (.num v :: os) = k v os := rfl
@[simp] theorem done_nil (i : Instr) : done i [] = some i := rfl

end Build

namespace Laws.RecordRoundTrip

/-- The tag and the operand descriptors give back the instruction. -/
def Statement (i : Instr) : Prop := Instr.ofRecord i.tag i.operands = some i

theorem abs (r : RegOp) (a : ValOp) : Statement (.abs r a) := by
  change Build.withReg (fun r => Build.withVal fun a => Build.done (.abs r a))
    [.ofRegOp r, .ofValOp a] = _
  simp only [Build.withReg_cons, Build.withVal_cons, Build.done_nil]

theorem acos (r : RegOp) (a : ValOp) : Statement (.acos r a) := by
  change Build.withReg (fun r => Build.withVal fun a => Build.done (.acos r a))
    [.ofRegOp r, .ofValOp a] = _
  simp only [Build.withReg_cons, Build.withVal_cons, Build.done_nil]

theorem add (r : RegOp) (a : ValOp) (b : ValOp) : Statement (.add r a b) := by
  change Build.withReg (fun r => Build.withVal fun a => Build.withVal fun b => Build.done (.add r a b))
    [.ofRegOp r, .ofValOp a, .ofValOp b] = _
  simp only [Build.withReg_cons, Build.withVal_cons, Build.done_nil]

theorem asin (r : RegOp) (a : ValOp) : Statement (.asin r a) := by
  change Build.withReg (fun r => Build.withVal fun a => Build.done (.asin r a))
    [.ofRegOp r, .ofValOp a] = _
  simp only [Build.withReg_cons, Build.withVal_cons, Build.done_nil]

theorem atan (r : RegOp) (a : ValOp) : Statement (.atan r a) := by
  change Build.withReg (fun r => Build.withVal fun a => Build.done (.atan r a))
    [.ofRegOp r, .ofValOp a] = _
  simp only [Build.withReg_cons, Build.withVal_cons, Build.done_nil]

theorem atan2 (r : RegOp) (a : ValOp) (b : ValOp) : Statement (.atan2 r a b) := by
  change Build.withReg (fun r => Build.withVal fun a => Build.withVal fun b => Build.done (.atan2 r a b))
    [.ofRegOp r, .ofValOp a, .ofValOp b] = _
  simp only [Build.withReg_cons, Build.withVal_cons, Build.done_nil]

theorem ceil (r : RegOp) (a : ValOp) : Statement (.ceil r a) := by
  change Build.withReg (fun r => Build.withVal fun a => Build.done (.ceil r a))
    [.ofRegOp r, .ofValOp a] = _
  simp only [Build.withReg_cons, Build.withVal_cons, Build.done_nil]

theorem cos (r : RegOp) (a : ValOp) : Statement (.cos r a) := by
  change Build.withReg (fun r => Build.withVal fun a => Build.done (.cos r a))
    [.ofRegOp r, .ofValOp a] = _
  simp only [Build.withReg_cons, Build.withVal_cons, Build.done_nil]

theorem div (r : RegOp) (a : ValOp) (b : ValOp) : Statement (.div r a b) := by
  change Build.withReg (fun r => Build.withVal fun a => Build.withVal fun b => Build.done (.div r a b))
    [.ofRegOp r, .ofValOp a, .ofValOp b] = _
  simp only [Build.withReg_cons, Build.withVal_cons, Build.done_nil]

theorem exp (r : RegOp) (a : ValOp) : Statement (.exp r a) := by
  change Build.withReg (fun r => Build.withVal fun a => Build.done (.exp r a))
    [.ofRegOp r, .ofValOp a] = _
  simp only [Build.withReg_cons, Build.withVal_cons, Build.done_nil]

theorem floor (r : RegOp) (a : ValOp) : Statement (.floor r a) := by
  change Build.withReg (fun r => Build.withVal fun a => Build.done (.floor r a))
    [.ofRegOp r, .ofValOp a] = _
  simp only [Build.withReg_cons, Build.withVal_cons, Build.done_nil]

theorem log (r : RegOp) (a : ValOp) : Statement (.log r a) := by
  change Build.withReg (fun r => Build.withVal fun a => Build.done (.log r a))
    [.ofRegOp r, .ofValOp a] = _
  simp only [Build.withReg_cons, Build.withVal_cons, Build.done_nil]

theorem max (r : RegOp) (a : ValOp) (b : ValOp) : Statement (.max r a b) := by
  change Build.withReg (fun r => Build.withVal fun a => Build.withVal fun b => Build.done (.max r a b))
    [.ofRegOp r, .ofValOp a, .ofValOp b] = _
  simp only [Build.withReg_cons, Build.withVal_cons, Build.done_nil]

theorem min (r : RegOp) (a : ValOp) (b : ValOp) : Statement (.min r a b) := by
  change Build.withReg (fun r => Build.withVal fun a => Build.withVal fun b => Build.done (.min r a b))
    [.ofRegOp r, .ofValOp a, .ofValOp b] = _
  simp only [Build.withReg_cons, Build.withVal_cons, Build.done_nil]

theorem mod (r : RegOp) (a : ValOp) (b : ValOp) : Statement (.mod r a b) := by
  change Build.withReg (fun r => Build.withVal fun a => Build.withVal fun b => Build.done (.mod r a b))
    [.ofRegOp r, .ofValOp a, .ofValOp b] = _
  simp only [Build.withReg_cons, Build.withVal_cons, Build.done_nil]

theorem move (r : RegOp) (a : ValOp) : Statement (.move r a) := by
  change Build.withReg (fun r => Build.withVal fun a => Build.done (.move r a))
    [.ofRegOp r, .ofValOp a] = _
  simp only [Build.withReg_cons, Build.withVal_cons, Build.done_nil]

theorem mul (r : RegOp) (a : ValOp) (b : ValOp) : Statement (.mul r a b) := by
  change Build.withReg (fun r => Build.withVal fun a => Build.withVal fun b => Build.done (.mul r a b))
    [.ofRegOp r, .ofValOp a, .ofValOp b] = _
  simp only [Build.withReg_cons, Build.withVal_cons, Build.done_nil]

theorem rand (r : RegOp) : Statement (.rand r) := by
  change Build.withReg (fun r => Build.done (.rand r))
    [.ofRegOp r] = _
  simp only [Build.withReg_cons, Build.done_nil]

theorem round (r : RegOp) (a : ValOp) : Statement (.round r a) := by
  change Build.withReg (fun r => Build.withVal fun a => Build.done (.round r a))
    [.ofRegOp r, .ofValOp a] = _
  simp only [Build.withReg_cons, Build.withVal_cons, Build.done_nil]

theorem select (r : RegOp) (a : ValOp) (b : ValOp) (c : ValOp) : Statement (.select r a b c) := by
  change Build.withReg (fun r => Build.withVal fun a => Build.withVal fun b => Build.withVal fun c => Build.done (.select r a b c))
    [.ofRegOp r, .ofValOp a, .ofValOp b, .ofValOp c] = _
  simp only [Build.withReg_cons, Build.withVal_cons, Build.done_nil]

theorem sin (r : RegOp) (a : ValOp) : Statement (.sin r a) := by
  change Build.withReg (fun r => Build.withVal fun a => Build.done (.sin r a))
    [.ofRegOp r, .ofValOp a] = _
  simp only [Build.withReg_cons, Build.withVal_cons, Build.done_nil]

theorem sqrt (r : RegOp) (a : ValOp) : Statement (.sqrt r a) := by
  change Build.withReg (fun r => Build.withVal fun a => Build.done (.sqrt r a))
    [.ofRegOp r, .ofValOp a] = _
  simp only [Build.withReg_cons, Build.withVal_cons, Build.done_nil]

theorem sub (r : RegOp) (a : ValOp) (b : ValOp) : Statement (.sub r a b) := by
  change Build.withReg (fun r => Build.withVal fun a => Build.withVal fun b => Build.done (.sub r a b))
    [.ofRegOp r, .ofValOp a, .ofValOp b] = _
  simp only [Build.withReg_cons, Build.withVal_cons, Build.done_nil]

theorem tan (r : RegOp) (a : ValOp) : Statement (.tan r a) := by
  change Build.withReg (fun r => Build.withVal fun a => Build.done (.tan r a))
    [.ofRegOp r, .ofValOp a] = _
  simp only [Build.withReg_cons, Build.withVal_cons, Build.done_nil]

theorem trunc (r : RegOp) (a : ValOp) : Statement (.trunc r a) := by
  change Build.withReg (fun r => Build.withVal fun a => Build.done (.trunc r a))
    [.ofRegOp r, .ofValOp a] = _
  simp only [Build.withReg_cons, Build.withVal_cons, Build.done_nil]

theorem and (r : RegOp) (a : ValOp) (b : ValOp) : Statement (.and r a b) := by
  change Build.withReg (fun r => Build.withVal fun a => Build.withVal fun b => Build.done (.and r a b))
    [.ofRegOp r, .ofValOp a, .ofValOp b] = _
  simp only [Build.withReg_cons, Build.withVal_cons, Build.done_nil]

theorem nor (r : RegOp) (a : ValOp) (b : ValOp) : Statement (.nor r a b) := by
  change Build.withReg (fun r => Build.withVal fun a => Build.withVal fun b => Build.done (.nor r a b))
    [.ofRegOp r, .ofValOp a, .ofValOp b] = _
  simp only [Build.withReg_cons, Build.withVal_cons, Build.done_nil]

theorem not (r : RegOp) (a : ValOp) : Statement (.not r a) := by
  change Build.withReg (fun r => Build.withVal fun a => Build.done (.not r a))
    [.ofRegOp r, .ofValOp a] = _
  simp only [Build.withReg_cons, Build.withVal_cons, Build.done_nil]

theorem or (r : RegOp) (a : ValOp) (b : ValOp) : Statement (.or r a b) := by
  change Build.withReg (fun r => Build.withVal fun a => Build.withVal fun b => Build.done (.or r a b))
    [.ofRegOp r, .ofValOp a, .ofValOp b] = _
  simp only [Build.withReg_cons, Build.withVal_cons, Build.done_nil]

theorem sla (r : RegOp) (a : ValOp) (b : ValOp) : Statement (.sla r a b) := by
  change Build.withReg (fun r => Build.withVal fun a => Build.withVal fun b => Build.done (.sla r a b))
    [.ofRegOp r, .ofValOp a, .ofValOp b] = _
  simp only [Build.withReg_cons, Build.withVal_cons, Build.done_nil]

theorem sll (r : RegOp) (a : ValOp) (b : ValOp) : Statement (.sll r a b) := by
  change Build.withReg (fun r => Build.withVal fun a => Build.withVal fun b => Build.done (.sll r a b))
    [.ofRegOp r, .ofValOp a, .ofValOp b] = _
  simp only [Build.withReg_cons, Build.withVal_cons, Build.done_nil]

theorem sra (r : RegOp) (a : ValOp) (b : ValOp) : Statement (.sra r a b) := by
  change Build.withReg (fun r => Build.withVal fun a => Build.withVal fun b => Build.done (.sra r a b))
    [.ofRegOp r, .ofValOp a, .ofValOp b] = _
  simp only [Build.withReg_cons, Build.withVal_cons, Build.done_nil]

theorem srl (r : RegOp) (a : ValOp) (b : ValOp) : Statement (.srl r a b) := by
  change Build.withReg (fun r => Build.withVal fun a => Build.withVal fun b => Build.done (.srl r a b))
    [.ofRegOp r, .ofValOp a, .ofValOp b] = _
  simp only [Build.withReg_cons, Build.withVal_cons, Build.done_nil]

theorem xor (r : RegOp) (a : ValOp) (b : ValOp) : Statement (.xor r a b) := by
  change Build.withReg (fun r => Build.withVal fun a => Build.withVal fun b => Build.done (.xor r a b))
    [.ofRegOp r, .ofValOp a, .ofValOp b] = _
  simp only [Build.withReg_cons, Build.withVal_cons, Build.done_nil]

theorem sap (r : RegOp) (a : ValOp) (b : ValOp) (c : ValOp) : Statement (.sap r a b c) := by
  change Build.withReg (fun r => Build.withVal fun a => Build.withVal fun b => Build.withVal fun c => Build.done (.sap r a b c))
    [.ofRegOp r, .ofValOp a, .ofValOp b, .ofValOp c] = _
  simp only [Build.withReg_cons, Build.withVal_cons, Build.done_nil]

theorem sapz (r : RegOp) (a : ValOp) (b : ValOp) : Statement (.sapz r a b) := by
  change Build.withReg (fun r => Build.withVal fun a => Build.withVal fun b => Build.done (.sapz r a b))
    [.ofRegOp r, .ofValOp a, .ofValOp b] = _
  simp only [Build.withReg_cons, Build.withVal_cons, Build.done_nil]

theorem seq (r : RegOp) (a : ValOp) (b : ValOp) : Statement (.seq r a b) := by
  change Build.withReg (fun r => Build.withVal fun a => Build.withVal fun b => Build.done (.seq r a b))
    [.ofRegOp r, .ofValOp a, .ofValOp b] = _
  simp only [Build.withReg_cons, Build.withVal_cons, Build.done_nil]

theorem seqz (r : RegOp) (a : ValOp) : Statement (.seqz r a) := by
  change Build.withReg (fun r => Build.withVal fun a => Build.done (.seqz r a))
    [.ofRegOp r, .ofValOp a] = _
  simp only [Build.withReg_cons, Build.withVal_cons, Build.done_nil]

theorem sge (r : RegOp) (a : ValOp) (b : ValOp) : Statement (.sge r a b) := by
  change Build.withReg (fun r => Build.withVal fun a => Build.withVal fun b => Build.done (.sge r a b))
    [.ofRegOp r, .ofValOp a, .ofValOp b] = _
  simp only [Build.withReg_cons, Build.withVal_cons, Build.done_nil]

theorem sgez (r : RegOp) (a : ValOp) : Statement (.sgez r a) := by
  change Build.withReg (fun r => Build.withVal fun a => Build.done (.sgez r a))
    [.ofRegOp r, .ofValOp a] = _
  simp only [Build.withReg_cons, Build.withVal_cons, Build.done_nil]

theorem sgt (r : RegOp) (a : ValOp) (b : ValOp) : Statement (.sgt r a b) := by
  change Build.withReg (fun r => Build.withVal fun a => Build.withVal fun b => Build.done (.sgt r a b))
    [.ofRegOp r, .ofValOp a, .ofValOp b] = _
  simp only [Build.withReg_cons, Build.withVal_cons, Build.done_nil]

theorem sgtz (r : RegOp) (a : ValOp) : Statement (.sgtz r a) := by
  change Build.withReg (fun r => Build.withVal fun a => Build.done (.sgtz r a))
    [.ofRegOp r, .ofValOp a] = _
  simp only [Build.withReg_cons, Build.withVal_cons, Build.done_nil]

theorem sle (r : RegOp) (a : ValOp) (b : ValOp) : Statement (.sle r a b) := by
  change Build.withReg (fun r => Build.withVal fun a => Build.withVal fun b => Build.done (.sle r a b))
    [.ofRegOp r, .ofValOp a, .ofValOp b] = _
  simp only [Build.withReg_cons, Build.withVal_cons, Build.done_nil]

theorem slez (r : RegOp) (a : ValOp) : Statement (.slez r a) := by
  change Build.withReg (fun r => Build.withVal fun a => Build.done (.slez r a))
    [.ofRegOp r, .ofValOp a] = _
  simp only [Build.withReg_cons, Build.withVal_cons, Build.done_nil]

theorem slt (r : RegOp) (a : ValOp) (b : ValOp) : Statement (.slt r a b) := by
  change Build.withReg (fun r => Build.withVal fun a => Build.withVal fun b => Build.done (.slt r a b))
    [.ofRegOp r, .ofValOp a, .ofValOp b] = _
  simp only [Build.withReg_cons, Build.withVal_cons, Build.done_nil]

theorem sltz (r : RegOp) (a : ValOp) : Statement (.sltz r a) := by
  change Build.withReg (fun r => Build.withVal fun a => Build.done (.sltz r a))
    [.ofRegOp r, .ofValOp a] = _
  simp only [Build.withReg_cons, Build.withVal_cons, Build.done_nil]

theorem sna (r : RegOp) (a : ValOp) (b : ValOp) (c : ValOp) : Statement (.sna r a b c) := by
  change Build.withReg (fun r => Build.withVal fun a => Build.withVal fun b => Build.withVal fun c => Build.done (.sna r a b c))
    [.ofRegOp r, .ofValOp a, .ofValOp b, .ofValOp c] = _
  simp only [Build.withReg_cons, Build.withVal_cons, Build.done_nil]

theorem snan (r : RegOp) (a : ValOp) : Statement (.snan r a) := by
  change Build.withReg (fun r => Build.withVal fun a => Build.done (.snan r a))
    [.ofRegOp r, .ofValOp a] = _
  simp only [Build.withReg_cons, Build.withVal_cons, Build.done_nil]

theorem snanz (r : RegOp) (a : ValOp) : Statement (.snanz r a) := by
  change Build.withReg (fun r => Build.withVal fun a => Build.done (.snanz r a))
    [.ofRegOp r, .ofValOp a] = _
  simp only [Build.withReg_cons, Build.withVal_cons, Build.done_nil]

theorem snaz (r : RegOp) (a : ValOp) (b : ValOp) : Statement (.snaz r a b) := by
  change Build.withReg (fun r => Build.withVal fun a => Build.withVal fun b => Build.done (.snaz r a b))
    [.ofRegOp r, .ofValOp a, .ofValOp b] = _
  simp only [Build.withReg_cons, Build.withVal_cons, Build.done_nil]

theorem sne (r : RegOp) (a : ValOp) (b : ValOp) : Statement (.sne r a b) := by
  change Build.withReg (fun r => Build.withVal fun a => Build.withVal fun b => Build.done (.sne r a b))
    [.ofRegOp r, .ofValOp a, .ofValOp b] = _
  simp only [Build.withReg_cons, Build.withVal_cons, Build.done_nil]

theorem snez (r : RegOp) (a : ValOp) : Statement (.snez r a) := by
  change Build.withReg (fun r => Build.withVal fun a => Build.done (.snez r a))
    [.ofRegOp r, .ofValOp a] = _
  simp only [Build.withReg_cons, Build.withVal_cons, Build.done_nil]

theorem clr (d : PinOp) : Statement (.clr d) := by
  change Build.withPin (fun d => Build.done (.clr d))
    [.ofPinOp d] = _
  simp only [Build.withPin_cons, Build.done_nil]

theorem clrd (id : ValOp) : Statement (.clrd id) := by
  change Build.withVal (fun id => Build.done (.clrd id))
    [.ofValOp id] = _
  simp only [Build.withVal_cons, Build.done_nil]

theorem get (r : RegOp) (d : PinOp) (addr : ValOp) : Statement (.get r d addr) := by
  change Build.withReg (fun r => Build.withPin fun d => Build.withVal fun addr => Build.done (.get r d addr))
    [.ofRegOp r, .ofPinOp d, .ofValOp addr] = _
  simp only [Build.withPin_cons, Build.withReg_cons, Build.withVal_cons, Build.done_nil]

theorem getd (r : RegOp) (id : ValOp) (addr : ValOp) : Statement (.getd r id addr) := by
  change Build.withReg (fun r => Build.withVal fun id => Build.withVal fun addr => Build.done (.getd r id addr))
    [.ofRegOp r, .ofValOp id, .ofValOp addr] = _
  simp only [Build.withReg_cons, Build.withVal_cons, Build.done_nil]

theorem l (r : RegOp) (d : PinOp) (key : KeyOp) : Statement (.l r d key) := by
  change Build.withReg (fun r => Build.withPin fun d => Build.withKey fun key => Build.done (.l r d key))
    [.ofRegOp r, .ofPinOp d, .ofKeyOp key] = _
  simp only [Build.withKey_cons, Build.withPin_cons, Build.withReg_cons, Build.done_nil]

theorem lb (r : RegOp) (hash : ValOp) (key : KeyOp) (mode : ModeOp) : Statement (.lb r hash key mode) := by
  change Build.withReg (fun r => Build.withVal fun hash => Build.withKey fun key => Build.withMode fun mode => Build.done (.lb r hash key mode))
    [.ofRegOp r, .ofValOp hash, .ofKeyOp key, .ofModeOp mode] = _
  simp only [Build.withKey_cons, Build.withMode_cons, Build.withReg_cons, Build.withVal_cons, Build.done_nil]

theorem lbn (r : RegOp) (hash : ValOp) (name : ValOp) (key : KeyOp) (mode : ModeOp) : Statement (.lbn r hash name key mode) := by
  change Build.withReg (fun r => Build.withVal fun hash => Build.withVal fun name => Build.withKey fun key => Build.withMode fun mode => Build.done (.lbn r hash name key mode))
    [.ofRegOp r, .ofValOp hash, .ofValOp name, .ofKeyOp key, .ofModeOp mode] = _
  simp only [Build.withKey_cons, Build.withMode_cons, Build.withReg_cons, Build.withVal_cons, Build.done_nil]

theorem lbns (r : RegOp) (hash : ValOp) (name : ValOp) (slot : ValOp) (key : KeyOp) (mode : ModeOp) : Statement (.lbns r hash name slot key mode) := by
  change Build.withReg (fun r => Build.withVal fun hash => Build.withVal fun name => Build.withVal fun slot => Build.withKey fun key => Build.withMode fun mode => Build.done (.lbns r hash name slot key mode))
    [.ofRegOp r, .ofValOp hash, .ofValOp name, .ofValOp slot, .ofKeyOp key, .ofModeOp mode] = _
  simp only [Build.withKey_cons, Build.withMode_cons, Build.withReg_cons, Build.withVal_cons, Build.done_nil]

theorem lbs (r : RegOp) (hash : ValOp) (slot : ValOp) (key : KeyOp) (mode : ModeOp) : Statement (.lbs r hash slot key mode) := by
  change Build.withReg (fun r => Build.withVal fun hash => Build.withVal fun slot => Build.withKey fun key => Build.withMode fun mode => Build.done (.lbs r hash slot key mode))
    [.ofRegOp r, .ofValOp hash, .ofValOp slot, .ofKeyOp key, .ofModeOp mode] = _
  simp only [Build.withKey_cons, Build.withMode_cons, Build.withReg_cons, Build.withVal_cons, Build.done_nil]

theorem ld (r : RegOp) (id : ValOp) (key : KeyOp) : Statement (.ld r id key) := by
  change Build.withReg (fun r => Build.withVal fun id => Build.withKey fun key => Build.done (.ld r id key))
    [.ofRegOp r, .ofValOp id, .ofKeyOp key] = _
  simp only [Build.withKey_cons, Build.withReg_cons, Build.withVal_cons, Build.done_nil]

theorem lr (r : RegOp) (d : PinOp) (key : KeyOp) (a : ValOp) : Statement (.lr r d key a) := by
  change Build.withReg (fun r => Build.withPin fun d => Build.withKey fun key => Build.withVal fun a => Build.done (.lr r d key a))
    [.ofRegOp r, .ofPinOp d, .ofKeyOp key, .ofValOp a] = _
  simp only [Build.withKey_cons, Build.withPin_cons, Build.withReg_cons, Build.withVal_cons, Build.done_nil]

theorem ls (r : RegOp) (d : PinOp) (slot : ValOp) (key : KeyOp) : Statement (.ls r d slot key) := by
  change Build.withReg (fun r => Build.withPin fun d => Build.withVal fun slot => Build.withKey fun key => Build.done (.ls r d slot key))
    [.ofRegOp r, .ofPinOp d, .ofValOp slot, .ofKeyOp key] = _
  simp only [Build.withKey_cons, Build.withPin_cons, Build.withReg_cons, Build.withVal_cons, Build.done_nil]

theorem put (d : PinOp) (addr : ValOp) (a : ValOp) : Statement (.put d addr a) := by
  change Build.withPin (fun d => Build.withVal fun addr => Build.withVal fun a => Build.done (.put d addr a))
    [.ofPinOp d, .ofValOp addr, .ofValOp a] = _
  simp only [Build.withPin_cons, Build.withVal_cons, Build.done_nil]

theorem putd (id : ValOp) (addr : ValOp) (a : ValOp) : Statement (.putd id addr a) := by
  change Build.withVal (fun id => Build.withVal fun addr => Build.withVal fun a => Build.done (.putd id addr a))
    [.ofValOp id, .ofValOp addr, .ofValOp a] = _
  simp only [Build.withVal_cons, Build.done_nil]

theorem s (d : PinOp) (key : KeyOp) (a : ValOp) : Statement (.s d key a) := by
  change Build.withPin (fun d => Build.withKey fun key => Build.withVal fun a => Build.done (.s d key a))
    [.ofPinOp d, .ofKeyOp key, .ofValOp a] = _
  simp only [Build.withKey_cons, Build.withPin_cons, Build.withVal_cons, Build.done_nil]

theorem sb (hash : ValOp) (key : KeyOp) (a : ValOp) : Statement (.sb hash key a) := by
  change Build.withVal (fun hash => Build.withKey fun key => Build.withVal fun a => Build.done (.sb hash key a))
    [.ofValOp hash, .ofKeyOp key, .ofValOp a] = _
  simp only [Build.withKey_cons, Build.withVal_cons, Build.done_nil]

theorem sbn (hash : ValOp) (name : ValOp) (key : KeyOp) (a : ValOp) : Statement (.sbn hash name key a) := by
  change Build.withVal (fun hash => Build.withVal fun name => Build.withKey fun key => Build.withVal fun a => Build.done (.sbn hash name key a))
    [.ofValOp hash, .ofValOp name, .ofKeyOp key, .ofValOp a] = _
  simp only [Build.withKey_cons, Build.withVal_cons, Build.done_nil]

theorem sbs (hash : ValOp) (slot : ValOp) (key : KeyOp) (a : ValOp) : Statement (.sbs hash slot key a) := by
  change Build.withVal (fun hash => Build.withVal fun slot => Build.withKey fun key => Build.withVal fun a => Build.done (.sbs hash slot key a))
    [.ofValOp hash, .ofValOp slot, .ofKeyOp key, .ofValOp a] = _
  simp only [Build.withKey_cons, Build.withVal_cons, Build.done_nil]

theorem sd (id : ValOp) (key : KeyOp) (a : ValOp) : Statement (.sd id key a) := by
  change Build.withVal (fun id => Build.withKey fun key => Build.withVal fun a => Build.done (.sd id key a))
    [.ofValOp id, .ofKeyOp key, .ofValOp a] = _
  simp only [Build.withKey_cons, Build.withVal_cons, Build.done_nil]

theorem sdns (r : RegOp) (d : PinOp) : Statement (.sdns r d) := by
  change Build.withReg (fun r => Build.withPin fun d => Build.done (.sdns r d))
    [.ofRegOp r, .ofPinOp d] = _
  simp only [Build.withPin_cons, Build.withReg_cons, Build.done_nil]

theorem sdse (r : RegOp) (d : PinOp) : Statement (.sdse r d) := by
  change Build.withReg (fun r => Build.withPin fun d => Build.done (.sdse r d))
    [.ofRegOp r, .ofPinOp d] = _
  simp only [Build.withPin_cons, Build.withReg_cons, Build.done_nil]

theorem ss (d : PinOp) (slot : ValOp) (key : KeyOp) (a : ValOp) : Statement (.ss d slot key a) := by
  change Build.withPin (fun d => Build.withVal fun slot => Build.withKey fun key => Build.withVal fun a => Build.done (.ss d slot key a))
    [.ofPinOp d, .ofValOp slot, .ofKeyOp key, .ofValOp a] = _
  simp only [Build.withKey_cons, Build.withPin_cons, Build.withVal_cons, Build.done_nil]

theorem peek (r : RegOp) : Statement (.peek r) := by
  change Build.withReg (fun r => Build.done (.peek r))
    [.ofRegOp r] = _
  simp only [Build.withReg_cons, Build.done_nil]

theorem poke (a : ValOp) (b : ValOp) : Statement (.poke a b) := by
  change Build.withVal (fun a => Build.withVal fun b => Build.done (.poke a b))
    [.ofValOp a, .ofValOp b] = _
  simp only [Build.withVal_cons, Build.done_nil]

theorem pop (r : RegOp) : Statement (.pop r) := by
  change Build.withReg (fun r => Build.done (.pop r))
    [.ofRegOp r] = _
  simp only [Build.withReg_cons, Build.done_nil]

theorem push (a : ValOp) : Statement (.push a) := by
  change Build.withVal (fun a => Build.done (.push a))
    [.ofValOp a] = _
  simp only [Build.withVal_cons, Build.done_nil]

theorem bap (a : ValOp) (b : ValOp) (c : ValOp) (e : ValOp) : Statement (.bap a b c e) := by
  change Build.withVal (fun a => Build.withVal fun b => Build.withVal fun c => Build.withVal fun e => Build.done (.bap a b c e))
    [.ofValOp a, .ofValOp b, .ofValOp c, .ofValOp e] = _
  simp only [Build.withVal_cons, Build.done_nil]

theorem bapal (a : ValOp) (b : ValOp) (c : ValOp) (e : ValOp) : Statement (.bapal a b c e) := by
  change Build.withVal (fun a => Build.withVal fun b => Build.withVal fun c => Build.withVal fun e => Build.done (.bapal a b c e))
    [.ofValOp a, .ofValOp b, .ofValOp c, .ofValOp e] = _
  simp only [Build.withVal_cons, Build.done_nil]

theorem bapz (a : ValOp) (b : ValOp) (c : ValOp) : Statement (.bapz a b c) := by
  change Build.withVal (fun a => Build.withVal fun b => Build.withVal fun c => Build.done (.bapz a b c))
    [.ofValOp a, .ofValOp b, .ofValOp c] = _
  simp only [Build.withVal_cons, Build.done_nil]

theorem bapzal (a : ValOp) (b : ValOp) (c : ValOp) : Statement (.bapzal a b c) := by
  change Build.withVal (fun a => Build.withVal fun b => Build.withVal fun c => Build.done (.bapzal a b c))
    [.ofValOp a, .ofValOp b, .ofValOp c] = _
  simp only [Build.withVal_cons, Build.done_nil]

theorem bdns (d : PinOp) (a : ValOp) : Statement (.bdns d a) := by
  change Build.withPin (fun d => Build.withVal fun a => Build.done (.bdns d a))
    [.ofPinOp d, .ofValOp a] = _
  simp only [Build.withPin_cons, Build.withVal_cons, Build.done_nil]

theorem bdnsal (d : PinOp) (a : ValOp) : Statement (.bdnsal d a) := by
  change Build.withPin (fun d => Build.withVal fun a => Build.done (.bdnsal d a))
    [.ofPinOp d, .ofValOp a] = _
  simp only [Build.withPin_cons, Build.withVal_cons, Build.done_nil]

theorem bdse (d : PinOp) (a : ValOp) : Statement (.bdse d a) := by
  change Build.withPin (fun d => Build.withVal fun a => Build.done (.bdse d a))
    [.ofPinOp d, .ofValOp a] = _
  simp only [Build.withPin_cons, Build.withVal_cons, Build.done_nil]

theorem bdseal (d : PinOp) (a : ValOp) : Statement (.bdseal d a) := by
  change Build.withPin (fun d => Build.withVal fun a => Build.done (.bdseal d a))
    [.ofPinOp d, .ofValOp a] = _
  simp only [Build.withPin_cons, Build.withVal_cons, Build.done_nil]

theorem beq (a : ValOp) (b : ValOp) (c : ValOp) : Statement (.beq a b c) := by
  change Build.withVal (fun a => Build.withVal fun b => Build.withVal fun c => Build.done (.beq a b c))
    [.ofValOp a, .ofValOp b, .ofValOp c] = _
  simp only [Build.withVal_cons, Build.done_nil]

theorem beqal (a : ValOp) (b : ValOp) (c : ValOp) : Statement (.beqal a b c) := by
  change Build.withVal (fun a => Build.withVal fun b => Build.withVal fun c => Build.done (.beqal a b c))
    [.ofValOp a, .ofValOp b, .ofValOp c] = _
  simp only [Build.withVal_cons, Build.done_nil]

theorem beqz (a : ValOp) (b : ValOp) : Statement (.beqz a b) := by
  change Build.withVal (fun a => Build.withVal fun b => Build.done (.beqz a b))
    [.ofValOp a, .ofValOp b] = _
  simp only [Build.withVal_cons, Build.done_nil]

theorem beqzal (a : ValOp) (b : ValOp) : Statement (.beqzal a b) := by
  change Build.withVal (fun a => Build.withVal fun b => Build.done (.beqzal a b))
    [.ofValOp a, .ofValOp b] = _
  simp only [Build.withVal_cons, Build.done_nil]

theorem bge (a : ValOp) (b : ValOp) (c : ValOp) : Statement (.bge a b c) := by
  change Build.withVal (fun a => Build.withVal fun b => Build.withVal fun c => Build.done (.bge a b c))
    [.ofValOp a, .ofValOp b, .ofValOp c] = _
  simp only [Build.withVal_cons, Build.done_nil]

theorem bgeal (a : ValOp) (b : ValOp) (c : ValOp) : Statement (.bgeal a b c) := by
  change Build.withVal (fun a => Build.withVal fun b => Build.withVal fun c => Build.done (.bgeal a b c))
    [.ofValOp a, .ofValOp b, .ofValOp c] = _
  simp only [Build.withVal_cons, Build.done_nil]

theorem bgez (a : ValOp) (b : ValOp) : Statement (.bgez a b) := by
  change Build.withVal (fun a => Build.withVal fun b => Build.done (.bgez a b))
    [.ofValOp a, .ofValOp b] = _
  simp only [Build.withVal_cons, Build.done_nil]

theorem bgezal (a : ValOp) (b : ValOp) : Statement (.bgezal a b) := by
  change Build.withVal (fun a => Build.withVal fun b => Build.done (.bgezal a b))
    [.ofValOp a, .ofValOp b] = _
  simp only [Build.withVal_cons, Build.done_nil]

theorem bgt (a : ValOp) (b : ValOp) (c : ValOp) : Statement (.bgt a b c) := by
  change Build.withVal (fun a => Build.withVal fun b => Build.withVal fun c => Build.done (.bgt a b c))
    [.ofValOp a, .ofValOp b, .ofValOp c] = _
  simp only [Build.withVal_cons, Build.done_nil]

theorem bgtal (a : ValOp) (b : ValOp) (c : ValOp) : Statement (.bgtal a b c) := by
  change Build.withVal (fun a => Build.withVal fun b => Build.withVal fun c => Build.done (.bgtal a b c))
    [.ofValOp a, .ofValOp b, .ofValOp c] = _
  simp only [Build.withVal_cons, Build.done_nil]

theorem bgtz (a : ValOp) (b : ValOp) : Statement (.bgtz a b) := by
  change Build.withVal (fun a => Build.withVal fun b => Build.done (.bgtz a b))
    [.ofValOp a, .ofValOp b] = _
  simp only [Build.withVal_cons, Build.done_nil]

theorem bgtzal (a : ValOp) (b : ValOp) : Statement (.bgtzal a b) := by
  change Build.withVal (fun a => Build.withVal fun b => Build.done (.bgtzal a b))
    [.ofValOp a, .ofValOp b] = _
  simp only [Build.withVal_cons, Build.done_nil]

theorem ble (a : ValOp) (b : ValOp) (c : ValOp) : Statement (.ble a b c) := by
  change Build.withVal (fun a => Build.withVal fun b => Build.withVal fun c => Build.done (.ble a b c))
    [.ofValOp a, .ofValOp b, .ofValOp c] = _
  simp only [Build.withVal_cons, Build.done_nil]

theorem bleal (a : ValOp) (b : ValOp) (c : ValOp) : Statement (.bleal a b c) := by
  change Build.withVal (fun a => Build.withVal fun b => Build.withVal fun c => Build.done (.bleal a b c))
    [.ofValOp a, .ofValOp b, .ofValOp c] = _
  simp only [Build.withVal_cons, Build.done_nil]

theorem blez (a : ValOp) (b : ValOp) : Statement (.blez a b) := by
  change Build.withVal (fun a => Build.withVal fun b => Build.done (.blez a b))
    [.ofValOp a, .ofValOp b] = _
  simp only [Build.withVal_cons, Build.done_nil]

theorem blezal (a : ValOp) (b : ValOp) : Statement (.blezal a b) := by
  change Build.withVal (fun a => Build.withVal fun b => Build.done (.blezal a b))
    [.ofValOp a, .ofValOp b] = _
  simp only [Build.withVal_cons, Build.done_nil]

theorem blt (a : ValOp) (b : ValOp) (c : ValOp) : Statement (.blt a b c) := by
  change Build.withVal (fun a => Build.withVal fun b => Build.withVal fun c => Build.done (.blt a b c))
    [.ofValOp a, .ofValOp b, .ofValOp c] = _
  simp only [Build.withVal_cons, Build.done_nil]

theorem bltal (a : ValOp) (b : ValOp) (c : ValOp) : Statement (.bltal a b c) := by
  change Build.withVal (fun a => Build.withVal fun b => Build.withVal fun c => Build.done (.bltal a b c))
    [.ofValOp a, .ofValOp b, .ofValOp c] = _
  simp only [Build.withVal_cons, Build.done_nil]

theorem bltz (a : ValOp) (b : ValOp) : Statement (.bltz a b) := by
  change Build.withVal (fun a => Build.withVal fun b => Build.done (.bltz a b))
    [.ofValOp a, .ofValOp b] = _
  simp only [Build.withVal_cons, Build.done_nil]

theorem bltzal (a : ValOp) (b : ValOp) : Statement (.bltzal a b) := by
  change Build.withVal (fun a => Build.withVal fun b => Build.done (.bltzal a b))
    [.ofValOp a, .ofValOp b] = _
  simp only [Build.withVal_cons, Build.done_nil]

theorem bna (a : ValOp) (b : ValOp) (c : ValOp) (e : ValOp) : Statement (.bna a b c e) := by
  change Build.withVal (fun a => Build.withVal fun b => Build.withVal fun c => Build.withVal fun e => Build.done (.bna a b c e))
    [.ofValOp a, .ofValOp b, .ofValOp c, .ofValOp e] = _
  simp only [Build.withVal_cons, Build.done_nil]

theorem bnaal (a : ValOp) (b : ValOp) (c : ValOp) (e : ValOp) : Statement (.bnaal a b c e) := by
  change Build.withVal (fun a => Build.withVal fun b => Build.withVal fun c => Build.withVal fun e => Build.done (.bnaal a b c e))
    [.ofValOp a, .ofValOp b, .ofValOp c, .ofValOp e] = _
  simp only [Build.withVal_cons, Build.done_nil]

theorem bnan (a : ValOp) (b : ValOp) : Statement (.bnan a b) := by
  change Build.withVal (fun a => Build.withVal fun b => Build.done (.bnan a b))
    [.ofValOp a, .ofValOp b] = _
  simp only [Build.withVal_cons, Build.done_nil]

theorem bnaz (a : ValOp) (b : ValOp) (c : ValOp) : Statement (.bnaz a b c) := by
  change Build.withVal (fun a => Build.withVal fun b => Build.withVal fun c => Build.done (.bnaz a b c))
    [.ofValOp a, .ofValOp b, .ofValOp c] = _
  simp only [Build.withVal_cons, Build.done_nil]

theorem bnazal (a : ValOp) (b : ValOp) (c : ValOp) : Statement (.bnazal a b c) := by
  change Build.withVal (fun a => Build.withVal fun b => Build.withVal fun c => Build.done (.bnazal a b c))
    [.ofValOp a, .ofValOp b, .ofValOp c] = _
  simp only [Build.withVal_cons, Build.done_nil]

theorem bne (a : ValOp) (b : ValOp) (c : ValOp) : Statement (.bne a b c) := by
  change Build.withVal (fun a => Build.withVal fun b => Build.withVal fun c => Build.done (.bne a b c))
    [.ofValOp a, .ofValOp b, .ofValOp c] = _
  simp only [Build.withVal_cons, Build.done_nil]

theorem bneal (a : ValOp) (b : ValOp) (c : ValOp) : Statement (.bneal a b c) := by
  change Build.withVal (fun a => Build.withVal fun b => Build.withVal fun c => Build.done (.bneal a b c))
    [.ofValOp a, .ofValOp b, .ofValOp c] = _
  simp only [Build.withVal_cons, Build.done_nil]

theorem bnez (a : ValOp) (b : ValOp) : Statement (.bnez a b) := by
  change Build.withVal (fun a => Build.withVal fun b => Build.done (.bnez a b))
    [.ofValOp a, .ofValOp b] = _
  simp only [Build.withVal_cons, Build.done_nil]

theorem bnezal (a : ValOp) (b : ValOp) : Statement (.bnezal a b) := by
  change Build.withVal (fun a => Build.withVal fun b => Build.done (.bnezal a b))
    [.ofValOp a, .ofValOp b] = _
  simp only [Build.withVal_cons, Build.done_nil]

theorem brap (a : ValOp) (b : ValOp) (c : ValOp) (e : ValOp) : Statement (.brap a b c e) := by
  change Build.withVal (fun a => Build.withVal fun b => Build.withVal fun c => Build.withVal fun e => Build.done (.brap a b c e))
    [.ofValOp a, .ofValOp b, .ofValOp c, .ofValOp e] = _
  simp only [Build.withVal_cons, Build.done_nil]

theorem brapz (a : ValOp) (b : ValOp) (c : ValOp) : Statement (.brapz a b c) := by
  change Build.withVal (fun a => Build.withVal fun b => Build.withVal fun c => Build.done (.brapz a b c))
    [.ofValOp a, .ofValOp b, .ofValOp c] = _
  simp only [Build.withVal_cons, Build.done_nil]

theorem brdns (d : PinOp) (a : ValOp) : Statement (.brdns d a) := by
  change Build.withPin (fun d => Build.withVal fun a => Build.done (.brdns d a))
    [.ofPinOp d, .ofValOp a] = _
  simp only [Build.withPin_cons, Build.withVal_cons, Build.done_nil]

theorem brdse (d : PinOp) (a : ValOp) : Statement (.brdse d a) := by
  change Build.withPin (fun d => Build.withVal fun a => Build.done (.brdse d a))
    [.ofPinOp d, .ofValOp a] = _
  simp only [Build.withPin_cons, Build.withVal_cons, Build.done_nil]

theorem breq (a : ValOp) (b : ValOp) (c : ValOp) : Statement (.breq a b c) := by
  change Build.withVal (fun a => Build.withVal fun b => Build.withVal fun c => Build.done (.breq a b c))
    [.ofValOp a, .ofValOp b, .ofValOp c] = _
  simp only [Build.withVal_cons, Build.done_nil]

theorem breqz (a : ValOp) (b : ValOp) : Statement (.breqz a b) := by
  change Build.withVal (fun a => Build.withVal fun b => Build.done (.breqz a b))
    [.ofValOp a, .ofValOp b] = _
  simp only [Build.withVal_cons, Build.done_nil]

theorem brge (a : ValOp) (b : ValOp) (c : ValOp) : Statement (.brge a b c) := by
  change Build.withVal (fun a => Build.withVal fun b => Build.withVal fun c => Build.done (.brge a b c))
    [.ofValOp a, .ofValOp b, .ofValOp c] = _
  simp only [Build.withVal_cons, Build.done_nil]

theorem brgez (a : ValOp) (b : ValOp) : Statement (.brgez a b) := by
  change Build.withVal (fun a => Build.withVal fun b => Build.done (.brgez a b))
    [.ofValOp a, .ofValOp b] = _
  simp only [Build.withVal_cons, Build.done_nil]

theorem brgt (a : ValOp) (b : ValOp) (c : ValOp) : Statement (.brgt a b c) := by
  change Build.withVal (fun a => Build.withVal fun b => Build.withVal fun c => Build.done (.brgt a b c))
    [.ofValOp a, .ofValOp b, .ofValOp c] = _
  simp only [Build.withVal_cons, Build.done_nil]

theorem brgtz (a : ValOp) (b : ValOp) : Statement (.brgtz a b) := by
  change Build.withVal (fun a => Build.withVal fun b => Build.done (.brgtz a b))
    [.ofValOp a, .ofValOp b] = _
  simp only [Build.withVal_cons, Build.done_nil]

theorem brle (a : ValOp) (b : ValOp) (c : ValOp) : Statement (.brle a b c) := by
  change Build.withVal (fun a => Build.withVal fun b => Build.withVal fun c => Build.done (.brle a b c))
    [.ofValOp a, .ofValOp b, .ofValOp c] = _
  simp only [Build.withVal_cons, Build.done_nil]

theorem brlez (a : ValOp) (b : ValOp) : Statement (.brlez a b) := by
  change Build.withVal (fun a => Build.withVal fun b => Build.done (.brlez a b))
    [.ofValOp a, .ofValOp b] = _
  simp only [Build.withVal_cons, Build.done_nil]

theorem brlt (a : ValOp) (b : ValOp) (c : ValOp) : Statement (.brlt a b c) := by
  change Build.withVal (fun a => Build.withVal fun b => Build.withVal fun c => Build.done (.brlt a b c))
    [.ofValOp a, .ofValOp b, .ofValOp c] = _
  simp only [Build.withVal_cons, Build.done_nil]

theorem brltz (a : ValOp) (b : ValOp) : Statement (.brltz a b) := by
  change Build.withVal (fun a => Build.withVal fun b => Build.done (.brltz a b))
    [.ofValOp a, .ofValOp b] = _
  simp only [Build.withVal_cons, Build.done_nil]

theorem brna (a : ValOp) (b : ValOp) (c : ValOp) (e : ValOp) : Statement (.brna a b c e) := by
  change Build.withVal (fun a => Build.withVal fun b => Build.withVal fun c => Build.withVal fun e => Build.done (.brna a b c e))
    [.ofValOp a, .ofValOp b, .ofValOp c, .ofValOp e] = _
  simp only [Build.withVal_cons, Build.done_nil]

theorem brnan (a : ValOp) (b : ValOp) : Statement (.brnan a b) := by
  change Build.withVal (fun a => Build.withVal fun b => Build.done (.brnan a b))
    [.ofValOp a, .ofValOp b] = _
  simp only [Build.withVal_cons, Build.done_nil]

theorem brnaz (a : ValOp) (b : ValOp) (c : ValOp) : Statement (.brnaz a b c) := by
  change Build.withVal (fun a => Build.withVal fun b => Build.withVal fun c => Build.done (.brnaz a b c))
    [.ofValOp a, .ofValOp b, .ofValOp c] = _
  simp only [Build.withVal_cons, Build.done_nil]

theorem brne (a : ValOp) (b : ValOp) (c : ValOp) : Statement (.brne a b c) := by
  change Build.withVal (fun a => Build.withVal fun b => Build.withVal fun c => Build.done (.brne a b c))
    [.ofValOp a, .ofValOp b, .ofValOp c] = _
  simp only [Build.withVal_cons, Build.done_nil]

theorem brnez (a : ValOp) (b : ValOp) : Statement (.brnez a b) := by
  change Build.withVal (fun a => Build.withVal fun b => Build.done (.brnez a b))
    [.ofValOp a, .ofValOp b] = _
  simp only [Build.withVal_cons, Build.done_nil]

theorem j (a : ValOp) : Statement (.j a) := by
  change Build.withVal (fun a => Build.done (.j a))
    [.ofValOp a] = _
  simp only [Build.withVal_cons, Build.done_nil]

theorem jal (a : ValOp) : Statement (.jal a) := by
  change Build.withVal (fun a => Build.done (.jal a))
    [.ofValOp a] = _
  simp only [Build.withVal_cons, Build.done_nil]

theorem jr (a : ValOp) : Statement (.jr a) := by
  change Build.withVal (fun a => Build.done (.jr a))
    [.ofValOp a] = _
  simp only [Build.withVal_cons, Build.done_nil]

theorem nop : Statement .nop := rfl

theorem aliasOp (str : Ident) (target : Target) : Statement (.aliasOp str target) := by
  change Build.withNewName (fun str => Build.withTarget fun target => Build.done (.aliasOp str target))
    [.newName str, .ofTarget target] = _
  simp only [Build.withNewName_cons, Build.withTarget_cons, Build.done_nil]

theorem define (str : Ident) (num : F64) : Statement (.define str num) := by
  change Build.withNewName (fun str => Build.withNum fun num => Build.done (.define str num))
    [.newName str, .num num] = _
  simp only [Build.withNewName_cons, Build.withNum_cons, Build.done_nil]

theorem hcf : Statement .hcf := rfl

theorem label (d : PinOp) (str : Ident) : Statement (.label d str) := by
  change Build.withPin (fun d => Build.withNewName fun str => Build.done (.label d str))
    [.ofPinOp d, .newName str] = _
  simp only [Build.withNewName_cons, Build.withPin_cons, Build.done_nil]

theorem sleep (a : ValOp) : Statement (.sleep a) := by
  change Build.withVal (fun a => Build.done (.sleep a))
    [.ofValOp a] = _
  simp only [Build.withVal_cons, Build.done_nil]

theorem yield : Statement .yield := rfl

end Laws.RecordRoundTrip

end Sys2Proof
end

