-- ==== Sys2Proof/Laws/Stops.lean ====
section
/-! SUPPORT. When an instruction can stop without a next state, said once over all of them: only through a name operand
that is bound to a thing its slot does not accept (30_encoding.md R333; log 14). -/

namespace Sys2Proof.Machine

/-- The name is bound, but to a thing that the slot does not accept. -/
def NameStops (s : State) (slot : Slot) (n : Ident) : Prop :=
  match slot with
  | .reg => ∃ b, s.binding n = .ok b ∧ ∀ r, b ≠ .target (.reg r)
  | .pin => ∃ b, s.binding n = .ok b ∧ ∀ p, b ≠ .target (.pin p)
  | _ => ∃ p, s.binding n = .ok (.target (.pin p))

/-- Some name among the slots and operands stops. -/
def SomeNameStops (l : List (Slot × Operand)) (s : State) : Prop :=
  ∃ slot n, (slot, Operand.name n) ∈ l ∧ NameStops s slot n

/-! ### What never stops -/

/-- The computation never stops. -/
def NeverStops {α : Type} (m : M α) : Prop := ∀ s f t, m s ≠ .error (.stopped f) t

section

variable {α β : Type}

theorem never_pure (a : α) : NeverStops (pure a : M α) := fun _ _ _ h => nomatch h
theorem never_raise (e : RunError) : NeverStops (raise e : M α) := fun s f t h => by
  rw [raise_apply] at h; injection h with h; cases h
theorem never_update (f : State → State) : NeverStops (update f) := fun _ _ _ h => nomatch h
theorem never_get : NeverStops (get : M State) := fun _ _ _ h => nomatch h
theorem never_ask (f : Port → α × Port) : NeverStops (ask f) := fun _ _ _ h => nomatch h

theorem never_bind (m : M α) (f : α → M β) (hm : NeverStops m) (hf : ∀ a, NeverStops (f a)) : NeverStops (m >>= f) := by
  intro s g u h
  cases hs : m s with
  | ok a t => rw [bind_of_ok m f s t a hs] at h; exact hf a t g u h
  | error e t => rw [bind_of_error m f s t e hs] at h; injection h with h; exact hm s g t (h ▸ hs)

theorem never_look (f : State → Except Exn α) (hf : ∀ s g, f s ≠ .error (.stopped g)) : NeverStops (look f) := by
  intro s g t h
  unfold look at h
  split at h
  · cases h
  · next e he => injection h with h; exact hf s g (h ▸ he)

end

theorem toIdx_not_stopped (v : F64) (e : RunError) (g : Fault) : toIdx v e ≠ .error (.stopped g) := by
  intro h
  have := (toIdx_eq_error v e _).1 h
  cases this.2

theorem stackAddr_not_stopped (v : F64) (g : Fault) : stackAddr v ≠ .error (.stopped g) := by
  unfold stackAddr
  split
  · next e he => intro h; cases h; exact toIdx_not_stopped _ _ _ he
  · repeat' split
    all_goals (intro h; cases h)

theorem target_not_stopped (s : State) (v : F64) (g : Fault) : s.target v ≠ .error (.stopped g) := by
  intro h
  have := State.target_eq_error s v _ h
  cases this

theorem never_setCell (c : Cell) (v : F64) : NeverStops (setCell c v) := never_update _
theorem never_setStack (a : Nat) (v : F64) : NeverStops (setStack a v) := never_update _
theorem never_setNpc (t : Nat) : NeverStops (setNpc t) := never_update _
theorem never_stackAddr (f : State → F64) : NeverStops (look fun t => stackAddr (f t)) :=
  never_look _ fun s g => stackAddr_not_stopped (f s) g

theorem never_need (h : Option Handle) : NeverStops (need h) := by
  cases h with
  | none => exact never_raise _
  | some h => exact never_pure h

theorem never_resolveId (id : F64) : NeverStops (resolveId id) := never_ask _
theorem never_resolveHash (t : F64) (n : Option F64) : NeverStops (resolveHash t n) := never_ask _

theorem never_readCall (c : DevCall) : NeverStops (readCall c) := never_bind _ _ (never_ask _) fun a => by
  cases a <;> first | exact never_pure _ | exact never_raise _

theorem never_readCellCall (c : DevCall) : NeverStops (readCellCall c) := never_bind _ _ (never_ask _) fun a => by
  cases a <;> first | exact never_pure _ | exact never_raise _

theorem never_writeCall (c : DevCall) : NeverStops (writeCall c) := never_bind _ _ (never_ask _) fun a => by
  cases a <;> first | exact never_pure _ | exact never_raise _

theorem never_writeCellCall (c : DevCall) : NeverStops (writeCellCall c) := never_bind _ _ (never_ask _) fun a => by
  cases a <;> first | exact never_pure _ | exact never_raise _

theorem never_devReadMem (h : Handle) (a : F64) : NeverStops (devReadMem h a) := by
  refine never_bind _ _ never_get fun s => ?_
  split
  · exact never_bind _ _ (never_stackAddr _) fun _ => never_bind _ _ never_get fun _ => never_pure _
  · exact never_readCellCall _

theorem never_devWriteMem (h : Handle) (a v : F64) : NeverStops (devWriteMem h a v) := by
  refine never_bind _ _ never_get fun s => ?_
  split
  · exact never_bind _ _ (never_stackAddr _) fun _ => never_setStack _ _
  · exact never_writeCellCall _

theorem never_devClearMem (h : Handle) : NeverStops (devClearMem h) := by
  refine never_bind _ _ never_get fun s => ?_
  split
  · exact never_update _
  · exact never_ask _

theorem never_readEach (read : Handle → M F64) (hread : ∀ h, NeverStops (read h)) (hs : List Handle) :
    NeverStops (readEach read hs) := by
  induction hs with
  | nil => exact never_pure _
  | cons h rest ih => exact never_bind _ _ (hread h) fun _ => never_bind _ _ ih fun _ => never_pure _

theorem never_writeEach (write : Handle → M Unit) (hwrite : ∀ h, NeverStops (write h)) (hs : List Handle) :
    NeverStops (writeEach write hs) := by
  induction hs with
  | nil => exact never_pure _
  | cons h rest ih => exact never_bind _ _ (hwrite h) fun _ => ih

theorem never_loadBatch (c : Cell) (t : F64) (n : Option F64) (m : BatchMode) (read : Handle → M F64)
    (hread : ∀ h, NeverStops (read h)) : NeverStops (loadBatch c t n m read) :=
  never_bind _ _ (never_resolveHash t n) fun hs => never_bind _ _ (never_readEach read hread hs) fun _ =>
    never_setCell c _

theorem never_storeBatch (t : F64) (n : Option F64) (write : Handle → M Unit) (hwrite : ∀ h, NeverStops (write h)) :
    NeverStops (storeBatch t n write) :=
  never_bind _ _ (never_resolveHash t n) fun hs => never_writeEach write hwrite hs

theorem never_jumpTo (v : F64) : NeverStops (jumpTo v) :=
  never_bind _ _ (never_look _ fun s g => target_not_stopped s v g) fun t => never_setNpc t

theorem never_callTo (v : F64) : NeverStops (callTo v) :=
  never_bind _ _ (never_look _ fun s g => target_not_stopped s v g) fun t =>
    never_bind _ _ (never_update _) fun _ => never_setNpc t

theorem never_jumpBy (v : F64) : NeverStops (jumpBy v) :=
  never_bind _ _ (never_look _ fun s g => target_not_stopped s _ g) fun t => never_setNpc t

theorem never_choice (c : Bool) (m : M Unit) (hm : NeverStops m) : NeverStops (if c then m else pure ()) := by
  split
  · exact hm
  · exact never_pure ()

/-! ### Operands: each resolved one may stop through its name -/

/-- The computation stops only where some name of `l` does. -/
def StopsBy {α : Type} (l : List (Slot × Operand)) (m : M α) : Prop :=
  ∀ s f t, m s = .error (.stopped f) t → SomeNameStops l s

theorem stopsBy_never {α : Type} (l : List (Slot × Operand)) (m : M α) (h : NeverStops m) : StopsBy l m :=
  fun s f t hs => absurd hs (h s f t)

theorem someNameStops_cons (p : Slot × Operand) (l : List (Slot × Operand)) (s : State) (h : SomeNameStops l s) :
    SomeNameStops (p :: l) s := by
  obtain ⟨slot, n, hm, hn⟩ := h
  exact ⟨slot, n, List.mem_cons_of_mem p hm, hn⟩

theorem registerIndex_not_stopped (v : F64) (g : Fault) : registerIndex v ≠ .error (.stopped g) := by
  unfold registerIndex
  split
  · next e he => intro h; cases h; exact toIdx_not_stopped _ _ _ he
  · split <;> (intro h; cases h)

theorem hops_not_stopped (s : State) (k : Nat) (i : Fin 18) (g : Fault) : s.hops k i ≠ .error (.stopped g) := by
  induction k generalizing i with
  | zero => intro h; cases h
  | succ k ih =>
    unfold State.hops
    split
    · next e he => intro h; cases h; exact registerIndex_not_stopped _ _ he
    · exact ih _

theorem cellOf_not_stopped (s : State) (r : Reg) (g : Fault) : s.cellOf r ≠ .error (.stopped g) := by
  cases r with
  | sp => intro h; cases h
  | ra => intro h; cases h
  | gpr n k =>
    unfold State.cellOf State.depthOk
    dsimp only
    split
    · next e he => split at he <;> (intro h; cases h; cases he)
    · split
      · next e he => intro h; cases h; exact hops_not_stopped _ _ _ _ he
      · intro h; cases h

theorem pinIndex_not_stopped (v : F64) (g : Fault) : pinIndex v ≠ .error (.stopped g) := by
  unfold pinIndex
  split
  · next e he => intro h; cases h; exact toIdx_not_stopped _ _ _ he
  · split <;> (intro h; cases h)

theorem modeNumber_not_stopped (v : F64) (g : Fault) : modeNumber v ≠ .error (.stopped g) := by
  unfold modeNumber
  split
  · next e he => intro h; cases h; exact toIdx_not_stopped _ _ _ he
  · repeat' split
    all_goals (intro h; cases h)

theorem binding_not_stopped (s : State) (n : Ident) (g : Fault) : s.binding n ≠ .error (.stopped g) := by
  unfold State.binding
  repeat' split
  all_goals simp

theorem pinOf_not_stopped (s : State) (p : PinRef) (g : Fault) : s.pinOf p ≠ .error (.stopped g) := by
  cases p with
  | direct p => intro h; cases h
  | ind n k =>
    unfold State.pinOf State.depthOk
    dsimp only
    split
    · next e he => split at he <;> (intro h; cases h; cases he)
    · split
      · next e he => intro h; cases h; exact hops_not_stopped _ _ _ _ he
      · split
        · next e he =>
          intro h; cases h
          exact pinIndex_not_stopped _ _ he
        · intro h; cases h

/-- A value stops only where its name is bound to a pin. -/
theorem value_stopped (s : State) (o : ValOp) (g : Fault) (h : s.value o = .error (.stopped g)) :
    ∃ n, o = .name n ∧ ∃ p, s.binding n = .ok (.target (.pin p)) := by
  cases o with
  | reg r =>
    unfold State.value State.regValue at h
    dsimp only at h
    split at h
    · next e he => cases h; exact absurd he (cellOf_not_stopped _ _ _)
    · cases h
  | num v => cases h
  | name n =>
    refine ⟨n, rfl, ?_⟩
    unfold State.value at h
    dsimp only at h
    split at h
    · next e he => cases h; exact absurd he (binding_not_stopped _ _ _)
    · unfold State.regValue at h
      split at h
      · next e he => cases h; exact absurd he (cellOf_not_stopped _ _ _)
      · cases h
    · next p hp => exact ⟨p, hp⟩
    · cases h
    · cases h

/-- A destination stops only where its name is bound to something else than a register. -/
theorem dest_stopped (s : State) (o : RegOp) (g : Fault) (h : s.dest o = .error (.stopped g)) :
    ∃ n, o = .name n ∧ NameStops s .reg n := by
  cases o with
  | reg r => exact absurd h (cellOf_not_stopped s r g)
  | name n =>
    refine ⟨n, rfl, ?_⟩
    unfold State.dest at h
    dsimp only at h
    split at h
    · next e he => cases h; exact absurd he (binding_not_stopped _ _ _)
    · exact absurd h (cellOf_not_stopped _ _ _)
    · next b hne hb => exact ⟨b, hb, fun r hr => hne r hr⟩

/-- A pin stops only where its name is bound to something else than a pin. -/
theorem pin_stopped (s : State) (o : PinOp) (g : Fault) (h : s.pin o = .error (.stopped g)) :
    ∃ n, o = .name n ∧ NameStops s .pin n := by
  cases o with
  | pin p => exact absurd h (pinOf_not_stopped s p g)
  | name n =>
    refine ⟨n, rfl, ?_⟩
    unfold State.pin at h
    dsimp only at h
    split at h
    · next e he => cases h; exact absurd he (binding_not_stopped _ _ _)
    · exact absurd h (pinOf_not_stopped _ _ _)
    · next b hne hb => exact ⟨b, hb, fun r hr => hne r hr⟩

theorem key_stopped (s : State) (o : KeyOp) (g : Fault) (h : s.key o = .error (.stopped g)) :
    ∃ n, o = .val (.name n) ∧ ∃ p, s.binding n = .ok (.target (.pin p)) := by
  cases o with
  | key k => cases h
  | val v =>
    unfold State.key at h
    dsimp only at h
    split at h
    · next e he =>
      cases h
      obtain ⟨n, rfl, hp⟩ := value_stopped _ _ _ he
      exact ⟨n, rfl, hp⟩
    · cases h

theorem mode_stopped (s : State) (o : ModeOp) (g : Fault) (h : s.mode o = .error (.stopped g)) :
    ∃ n, o = .val (.name n) ∧ ∃ p, s.binding n = .ok (.target (.pin p)) := by
  cases o with
  | mode m => cases h
  | val v =>
    unfold State.mode at h
    dsimp only at h
    split at h
    · next e he =>
      cases h
      obtain ⟨n, rfl, hp⟩ := value_stopped _ _ _ he
      exact ⟨n, rfl, hp⟩
    · exact absurd h (modeNumber_not_stopped _ _)

/-- A resolved operand and what follows: a lookup that stops only through the operand's name. -/
theorem stopsBy_look {α β : Type} (p : Slot × Operand) (l : List (Slot × Operand)) (g : State → Except Exn α)
    (f : α → M β) (hg : ∀ s e, g s = .error (.stopped e) → SomeNameStops [p] s) (hf : ∀ a, StopsBy l (f a)) :
    StopsBy (p :: l) (look g >>= f) := by
  intro s e t h
  cases hs : g s with
  | ok a =>
    rw [bind_of_ok _ f s s a (look_apply g s a hs)] at h
    exact someNameStops_cons p l s (hf a s e t h)
  | error x =>
    rw [bind_of_error _ f s s x (look_error g s x hs)] at h
    cases h
    obtain ⟨slot, n, hm, hn⟩ := hg s e hs
    exact ⟨slot, n, List.mem_cons.2 (.inl (List.mem_singleton.1 hm)), hn⟩

section

variable {β : Type} (l : List (Slot × Operand))

theorem stops_value (o : ValOp) (f : F64 → M β) (hf : ∀ a, StopsBy l (f a)) :
    StopsBy ((.val, .ofValOp o) :: l) (value o >>= f) :=
  stopsBy_look _ l _ f (fun s e h => by
    obtain ⟨n, rfl, hp⟩ := value_stopped s o e h
    exact ⟨.val, n, List.mem_singleton.2 rfl, hp⟩) hf

theorem stops_dest (o : RegOp) (f : Cell → M β) (hf : ∀ a, StopsBy l (f a)) :
    StopsBy ((.reg, .ofRegOp o) :: l) (dest o >>= f) :=
  stopsBy_look _ l _ f (fun s e h => by
    obtain ⟨n, rfl, hp⟩ := dest_stopped s o e h
    exact ⟨.reg, n, List.mem_singleton.2 rfl, hp⟩) hf

theorem stops_key (slot : Slot) (hs : slot ≠ .reg ∧ slot ≠ .pin) (o : KeyOp) (f : Key → M β)
    (hf : ∀ a, StopsBy l (f a)) : StopsBy ((slot, .ofKeyOp o) :: l) (key o >>= f) :=
  stopsBy_look _ l _ f (fun s e h => by
    obtain ⟨n, rfl, hp⟩ := key_stopped s o e h
    refine ⟨slot, n, List.mem_singleton.2 rfl, ?_⟩
    cases slot <;> first | exact hp | exact absurd rfl hs.1 | exact absurd rfl hs.2) hf

theorem stops_mode (o : ModeOp) (f : BatchMode → M β) (hf : ∀ a, StopsBy l (f a)) :
    StopsBy ((.bm, .ofModeOp o) :: l) (mode o >>= f) :=
  stopsBy_look _ l _ f (fun s e h => by
    obtain ⟨n, rfl, hp⟩ := mode_stopped s o e h
    exact ⟨.bm, n, List.mem_singleton.2 rfl, hp⟩) hf

/-- A pin operand: its lookup, and then the host's answer, which changes the port only. -/
theorem stops_pin (o : PinOp) (f : Option Handle → M β) (hf : ∀ a, StopsBy l (f a)) :
    StopsBy ((.pin, .ofPinOp o) :: l) (pin o >>= f) := by
  intro s e t h
  cases hs : s.pin o with
  | ok p =>
    rw [bind_of_ok _ f s _ _ (pin_ok o s p hs)] at h
    obtain ⟨slot, n, hm, hn⟩ := hf _ _ e t h
    refine someNameStops_cons _ l s ⟨slot, n, hm, ?_⟩
    cases slot <;> exact hn
  | error x =>
    rw [bind_of_error _ f s s x (pin_error o s x hs)] at h
    cases h
    obtain ⟨n, rfl, hp⟩ := pin_stopped s o e hs
    exact ⟨.pin, n, List.mem_cons_self, hp⟩

end

/-! ### The shared shapes -/

theorem stops_unary (f : F64 → F64) (r : RegOp) (a : ValOp) :
    StopsBy [(.reg, .ofRegOp r), (.val, .ofValOp a)] (unary f r a) :=
  stops_dest _ r _ fun _ => stops_value _ a _ fun _ => stopsBy_never _ _ (never_setCell _ _)

theorem stops_binary (f : F64 → F64 → F64) (r : RegOp) (a b : ValOp) :
    StopsBy [(.reg, .ofRegOp r), (.val, .ofValOp a), (.val, .ofValOp b)] (binary f r a b) :=
  stops_dest _ r _ fun _ => stops_value _ a _ fun _ => stops_value _ b _ fun _ =>
    stopsBy_never _ _ (never_setCell _ _)

theorem stops_ternary (f : F64 → F64 → F64 → F64) (r : RegOp) (a b d : ValOp) :
    StopsBy [(.reg, .ofRegOp r), (.val, .ofValOp a), (.val, .ofValOp b), (.val, .ofValOp d)] (ternary f r a b d) :=
  stops_dest _ r _ fun _ => stops_value _ a _ fun _ => stops_value _ b _ fun _ => stops_value _ d _ fun _ =>
    stopsBy_never _ _ (never_setCell _ _)

section

variable (go : F64 → M Unit) (hgo : ∀ v, NeverStops (go v))

include hgo

theorem stops_branch1 (p : F64 → Bool) (a b : ValOp) :
    StopsBy [(.val, .ofValOp a), (.val, .ofValOp b)] (branch1 p go a b) :=
  stops_value _ a _ fun _ => stops_value _ b _ fun t => stopsBy_never _ _ (never_choice _ _ (hgo t))

theorem stops_branch2 (p : F64 → F64 → Bool) (a b c : ValOp) :
    StopsBy [(.val, .ofValOp a), (.val, .ofValOp b), (.val, .ofValOp c)] (branch2 p go a b c) :=
  stops_value _ a _ fun _ => stops_value _ b _ fun _ => stops_value _ c _ fun t =>
    stopsBy_never _ _ (never_choice _ _ (hgo t))

theorem stops_branch3 (p : F64 → F64 → F64 → Bool) (a b c e : ValOp) :
    StopsBy [(.val, .ofValOp a), (.val, .ofValOp b), (.val, .ofValOp c), (.val, .ofValOp e)] (branch3 p go a b c e) :=
  stops_value _ a _ fun _ => stops_value _ b _ fun _ => stops_value _ c _ fun _ => stops_value _ e _ fun t =>
    stopsBy_never _ _ (never_choice _ _ (hgo t))

theorem stops_branchPin (p : Option Handle → Bool) (d : PinOp) (a : ValOp) :
    StopsBy [(.pin, .ofPinOp d), (.val, .ofValOp a)] (branchPin p go d a) :=
  stops_pin _ d _ fun _ => stops_value _ a _ fun t => stopsBy_never _ _ (never_choice _ _ (hgo t))

end

/-! ### Every instruction -/

/-- A performed computation that stops only by the names of an instruction's operands. -/
theorem fault_names {l : List (Slot × Operand)} {m : M Unit} (hm : StopsBy l m) (s : State) (f : Fault)
    (h : perform m s = .fault f) (i : Instr) (hl : i.slots.zip i.operands = l) :
    SomeNameStops (i.slots.zip i.operands) s := by
  obtain ⟨t, ht⟩ := perform_fault m s f h
  rw [hl]
  exact hm s f t ht

/-- An instruction stops only through a name operand that is bound to a thing its slot does not accept. -/
theorem exec_fault (i : Instr) (s : State) (f : Fault) (h : exec i s = .fault f) :
    SomeNameStops (i.slots.zip i.operands) s := by
  cases i
  case nop => cases h
  case yield => cases h
  case hcf => cases h
  case label => cases h
  case aliasOp => cases h
  case define => cases h
  case abs | acos | asin | atan | ceil | cos | exp | floor | log | move | round | sin | sqrt | tan | trunc
    | not | seqz | sgez | sgtz | slez | sltz | snan | snanz | snez =>
    exact fault_names (stops_unary _ _ _) s f h _ rfl
  case add | atan2 | div | max | min | mod | mul | sub | and | nor | or | sla | sll | sra | srl | xor |
    sapz | seq | sge | sgt | sle | slt | snaz | sne =>
    exact fault_names (stops_binary _ _ _ _) s f h _ rfl
  case sap | select | sna =>
    exact fault_names (stops_ternary _ _ _ _ _) s f h _ rfl
  case beqz | bgez | bgtz | blez | bltz | bnez | bnan =>
    exact fault_names (stops_branch1 _ never_jumpTo _ _ _) s f h _ rfl
  case beq | bge | bgt | ble | blt | bne | bapz | bnaz =>
    exact fault_names (stops_branch2 _ never_jumpTo _ _ _ _) s f h _ rfl
  case bap | bna =>
    exact fault_names (stops_branch3 _ never_jumpTo _ _ _ _ _) s f h _ rfl
  case bdse | bdns =>
    exact fault_names (stops_branchPin _ never_jumpTo _ _ _) s f h _ rfl
  case beqzal | bgezal | bgtzal | blezal | bltzal | bnezal =>
    exact fault_names (stops_branch1 _ never_callTo _ _ _) s f h _ rfl
  case beqal | bgeal | bgtal | bleal | bltal | bneal | bapzal | bnazal =>
    exact fault_names (stops_branch2 _ never_callTo _ _ _ _) s f h _ rfl
  case bapal | bnaal =>
    exact fault_names (stops_branch3 _ never_callTo _ _ _ _ _) s f h _ rfl
  case bdseal | bdnsal =>
    exact fault_names (stops_branchPin _ never_callTo _ _ _) s f h _ rfl
  case breqz | brgez | brgtz | brlez | brltz | brnez | brnan =>
    exact fault_names (stops_branch1 _ never_jumpBy _ _ _) s f h _ rfl
  case breq | brge | brgt | brle | brlt | brne | brapz | brnaz =>
    exact fault_names (stops_branch2 _ never_jumpBy _ _ _ _) s f h _ rfl
  case brap | brna =>
    exact fault_names (stops_branch3 _ never_jumpBy _ _ _ _ _) s f h _ rfl
  case brdse | brdns =>
    exact fault_names (stops_branchPin _ never_jumpBy _ _ _) s f h _ rfl
  case sleep =>
    exact fault_names (stops_value _ _ _ fun _ => stopsBy_never _ _ (never_update _)) s f h _ rfl
  case rand =>
    exact fault_names (stops_dest _ _ _ fun _ => stopsBy_never _ _ (never_bind _ _ (never_ask _) fun _ =>
      never_setCell _ _)) s f h _ rfl
  case push =>
    exact fault_names (stops_value _ _ _ fun _ => stopsBy_never _ _ (never_bind _ _ (never_stackAddr _) fun _ =>
      never_bind _ _ (never_setStack _ _) fun _ => never_setCell _ _)) s f h _ rfl
  case poke =>
    exact fault_names (stops_value _ _ _ fun _ => stops_value _ _ _ fun _ => stopsBy_never _ _ (never_bind _ _
      (never_stackAddr _) fun _ => never_setStack _ _)) s f h _ rfl
  case pop =>
    exact fault_names (stops_dest _ _ _ fun _ => stopsBy_never _ _ (never_bind _ _ (never_stackAddr _) fun _ =>
      never_bind _ _ (never_look _ fun _ _ h => by cases h) fun _ => never_bind _ _ (never_setCell _ _) fun _ =>
      never_setCell _ _)) s f h _ rfl
  case peek =>
    exact fault_names (stops_dest _ _ _ fun _ => stopsBy_never _ _ (never_bind _ _ (never_stackAddr _) fun _ =>
      never_bind _ _ (never_look _ fun _ _ h => by cases h) fun _ => never_setCell _ _)) s f h _ rfl
  case j =>
    exact fault_names (stops_value _ _ _ fun _ => stopsBy_never _ _ (never_jumpTo _)) s f h _ rfl
  case jal =>
    exact fault_names (stops_value _ _ _ fun _ => stopsBy_never _ _ (never_callTo _)) s f h _ rfl
  case jr =>
    exact fault_names (stops_value _ _ _ fun _ => stopsBy_never _ _ (never_jumpBy _)) s f h _ rfl
  case l =>
    exact fault_names (stops_dest _ _ _ fun _ => stops_pin _ _ _ fun _ => stops_key _ .lt ⟨by decide, by decide⟩
      _ _ fun _ => stopsBy_never _ _ (never_bind _ _ (never_need _) fun _ => never_bind _ _ (never_readCall _)
      fun _ => never_setCell _ _)) s f h _ rfl
  case s =>
    exact fault_names (stops_pin _ _ _ fun _ => stops_key _ .lt ⟨by decide, by decide⟩ _ _ fun _ => stops_value
      _ _ _ fun _ => stopsBy_never _ _ (never_bind _ _ (never_need _) fun _ => never_writeCall _)) s f h _ rfl
  case ls =>
    exact fault_names (stops_dest _ _ _ fun _ => stops_pin _ _ _ fun _ => stops_value _ _ _ fun _ => stops_key _
      .slt ⟨by decide, by decide⟩ _ _ fun _ => stopsBy_never _ _ (never_bind _ _ (never_need _) fun _ =>
      never_bind _ _ (never_readCall _) fun _ => never_setCell _ _)) s f h _ rfl
  case ss =>
    exact fault_names (stops_pin _ _ _ fun _ => stops_value _ _ _ fun _ => stops_key _ .slt ⟨by decide, by
      decide⟩ _ _ fun _ => stops_value _ _ _ fun _ => stopsBy_never _ _ (never_bind _ _ (never_need _) fun _ =>
      never_writeCall _)) s f h _ rfl
  case lr =>
    exact fault_names (stops_dest _ _ _ fun _ => stops_pin _ _ _ fun _ => stops_key _ .rm ⟨by decide, by decide⟩
      _ _ fun _ => stops_value _ _ _ fun _ => stopsBy_never _ _ (never_bind _ _ (never_need _) fun _ =>
      never_bind _ _ (never_readCellCall _) fun _ => never_setCell _ _)) s f h _ rfl
  case ld =>
    exact fault_names (stops_dest _ _ _ fun _ => stops_value _ _ _ fun _ => stops_key _ .lt ⟨by decide, by
      decide⟩ _ _ fun _ => stopsBy_never _ _ (never_bind _ _ (never_resolveId _) fun _ => never_bind _ _
      (never_need _) fun _ => never_bind _ _ (never_readCall _) fun _ => never_setCell _ _)) s f h _ rfl
  case sd =>
    exact fault_names (stops_value _ _ _ fun _ => stops_key _ .lt ⟨by decide, by decide⟩ _ _ fun _ =>
      stops_value _ _ _ fun _ => stopsBy_never _ _ (never_bind _ _ (never_resolveId _) fun _ => never_bind _ _
      (never_need _) fun _ => never_writeCall _)) s f h _ rfl
  case get =>
    exact fault_names (stops_dest _ _ _ fun _ => stops_pin _ _ _ fun _ => stops_value _ _ _ fun _ =>
      stopsBy_never _ _ (never_bind _ _ (never_need _) fun _ => never_bind _ _ (never_devReadMem _ _) fun _ =>
      never_setCell _ _)) s f h _ rfl
  case put =>
    exact fault_names (stops_pin _ _ _ fun _ => stops_value _ _ _ fun _ => stops_value _ _ _ fun _ =>
      stopsBy_never _ _ (never_bind _ _ (never_need _) fun _ => never_devWriteMem _ _ _)) s f h _ rfl
  case getd =>
    exact fault_names (stops_dest _ _ _ fun _ => stops_value _ _ _ fun _ => stops_value _ _ _ fun _ =>
      stopsBy_never _ _ (never_bind _ _ (never_resolveId _) fun _ => never_bind _ _ (never_need _) fun _ =>
      never_bind _ _ (never_devReadMem _ _) fun _ => never_setCell _ _)) s f h _ rfl
  case putd =>
    exact fault_names (stops_value _ _ _ fun _ => stops_value _ _ _ fun _ => stops_value _ _ _ fun _ =>
      stopsBy_never _ _ (never_bind _ _ (never_resolveId _) fun _ => never_bind _ _ (never_need _) fun _ =>
      never_devWriteMem _ _ _)) s f h _ rfl
  case clr =>
    exact fault_names (stops_pin _ _ _ fun _ => stopsBy_never _ _ (never_bind _ _ (never_need _) fun _ =>
      never_devClearMem _)) s f h _ rfl
  case clrd =>
    exact fault_names (stops_value _ _ _ fun _ => stopsBy_never _ _ (never_bind _ _ (never_resolveId _) fun _ =>
      never_bind _ _ (never_need _) fun _ => never_devClearMem _)) s f h _ rfl
  case sdse =>
    exact fault_names (stops_dest _ _ _ fun _ => stops_pin _ _ _ fun _ => stopsBy_never _ _ (never_setCell _ _))
      s f h _ rfl
  case sdns =>
    exact fault_names (stops_dest _ _ _ fun _ => stops_pin _ _ _ fun _ => stopsBy_never _ _ (never_setCell _ _))
      s f h _ rfl
  case lb =>
    exact fault_names (stops_dest _ _ _ fun _ => stops_value _ _ _ fun _ => stops_key _ .lt ⟨by decide, by
      decide⟩ _ _ fun _ => stops_mode _ _ _ fun _ => stopsBy_never _ _ (never_loadBatch _ _ _ _ _ fun _ =>
      never_readCall _)) s f h _ rfl
  case lbn =>
    exact fault_names (stops_dest _ _ _ fun _ => stops_value _ _ _ fun _ => stops_value _ _ _ fun _ => stops_key
      _ .lt ⟨by decide, by decide⟩ _ _ fun _ => stops_mode _ _ _ fun _ => stopsBy_never _ _ (never_loadBatch _ _
      _ _ _ fun _ => never_readCall _)) s f h _ rfl
  case lbs =>
    exact fault_names (stops_dest _ _ _ fun _ => stops_value _ _ _ fun _ => stops_value _ _ _ fun _ => stops_key
      _ .slt ⟨by decide, by decide⟩ _ _ fun _ => stops_mode _ _ _ fun _ => stopsBy_never _ _ (never_loadBatch _
      _ _ _ _ fun _ => never_readCall _)) s f h _ rfl
  case lbns =>
    exact fault_names (stops_dest _ _ _ fun _ => stops_value _ _ _ fun _ => stops_value _ _ _ fun _ =>
      stops_value _ _ _ fun _ => stops_key _ .slt ⟨by decide, by decide⟩ _ _ fun _ => stops_mode _ _ _ fun _ =>
      stopsBy_never _ _ (never_loadBatch _ _ _ _ _ fun _ => never_readCall _)) s f h _ rfl
  case sb =>
    exact fault_names (stops_value _ _ _ fun _ => stops_key _ .lt ⟨by decide, by decide⟩ _ _ fun _ =>
      stops_value _ _ _ fun _ => stopsBy_never _ _ (never_storeBatch _ _ _ fun _ => never_writeCall _)) s f h _
      rfl
  case sbn =>
    exact fault_names (stops_value _ _ _ fun _ => stops_value _ _ _ fun _ => stops_key _ .lt ⟨by decide, by
      decide⟩ _ _ fun _ => stops_value _ _ _ fun _ => stopsBy_never _ _ (never_storeBatch _ _ _ fun _ =>
      never_writeCall _)) s f h _ rfl
  case sbs =>
    exact fault_names (stops_value _ _ _ fun _ => stops_value _ _ _ fun _ => stops_key _ .slt ⟨by decide, by
      decide⟩ _ _ fun _ => stops_value _ _ _ fun _ => stopsBy_never _ _ (never_storeBatch _ _ _ fun _ =>
      never_writeCall _)) s f h _ rfl

end Sys2Proof.Machine
end

