-- ==== Sys2Proof/Tests/Slice0.lean ====
section
/-! SUPPORT. Tests of one sitting: refused terms for each check of WellFormed, every constructor's decoding from a
written-out line, the test vectors of spec/95_test_vectors.md, and a witness for the hypotheses of each statement. -/

namespace Sys2Proof.Tests

set_option Elab.async false

open Sys2Proof.Machine

/-! ### Helpers -/

theorem ok_of {ε α : Type} {x : Except ε α} {a : α} (h : x.toOption = some a) : x = .ok a := by
  cases x with
  | error e => cases h
  | ok b => cases h; rfl

/-- The error of a computation, if it has one. -/
def errorOf {ε α : Type} : Except ε α → Option ε
  | .error e => some e
  | .ok _ => none

theorem error_of {ε α : Type} {x : Except ε α} {e : ε} (h : errorOf x = some e) : x = .error e := by
  cases x with
  | error f => cases h; rfl
  | ok b => cases h

def keys : KeyNames := ⟨[bytes "Setting", bytes "On"], [bytes "Occupied", bytes "Lock"], [bytes "Contents"]⟩

/-- The parameters of spec/95_test_vectors.md. -/
def params : Params where
  spRaAliased := false
  bitwise := .i64
  roundHalf := .away
  endOfProgram := .fault
  tickBudget := 32
  maxIndirection := 2
  approxEps := F64.ofMagnitude false 1
  keyNames := keys
  maxLines := some 10
  dbMemoryIsStack := false

/-- The small state of the tests: ten empty lines, a tick under way, four bound pins. -/
def demo : State := { State.reset with
  params := params
  program := some (List.replicate 10 ⟨.nop, 0, []⟩)
  status := .ready
  inTick := true
  port := { Port.powerOn with pins := ⟨#v[some 10, some 11, some 12, none, none, none], some 20⟩ } }

/-- The same state with other register contents. -/
def regs (l : List (Nat × Int)) : State :=
  { demo with x := Vector.ofFn fun i => match l.lookup i.val with | some v => F64.ofInt v | none => F64.zero }

/-- The datum a literal token stands for. -/
def lit (t : String) : Option F64 :=
  match Lexer.lex (bytes t) with
  | .num v => some v
  | .const v => some v
  | _ => none

/-- Decode a line and execute it. -/
def run (s : State) (line : String) : Option State :=
  match decode keys (bytes line) with
  | .ok i =>
    match exec i s with
    | .next t => some t
    | _ => none
  | .error _ => none

/-- Each line completes with the given literal in `r0`. -/
def gives (s : State) (cases : List (String × String)) : Bool :=
  cases.all fun p =>
    match run s p.1, lit p.2 with
    | some t, some v => !t.crashed && t.readCell (.x 0) == v
    | _, _ => false

/-- Each line takes the fatal entry with the given error and code, and writes no register and no stack cell. -/
def crashes (s : State) (cases : List (String × RunError × Nat)) : Bool :=
  cases.all fun p =>
    match run s p.1 with
    | some t => t.crashed && t.error == some ⟨p.2.1, p.2.2, s.pc⟩ && t.x == s.x && t.sp == s.sp && t.ra == s.ra &&
        t.stack == s.stack && t.pc == s.pc
    | none => false

/-- Each line makes the given calls, oldest first, and writes no register. -/
def callsOf (s : State) (cases : List (String × List DevCall)) : Bool :=
  cases.all fun p =>
    match run s p.1 with
    | some t => t.port.calls.reverse == p.2 && t.x == s.x && !t.crashed
    | none => false

/-- Each line, run at the given program counter, leads to the given next one, and `ra` to the given value. -/
def goes (s : State) (cases : List (Nat × String × Nat × Int)) : Bool :=
  cases.all fun p =>
    match run { s with pc := p.1, npc := none } p.2.1 with
    | some t => t.sequence.pc == p.2.2.1 && t.readCell .ra == F64.ofInt p.2.2.2 && !t.crashed
    | none => false

/-- Each line decodes to the given instruction. -/
def reads (cases : List (String × Instr)) : Bool :=
  cases.all fun p => (decode keys (bytes p.1)).toOption == some p.2

/-! ### WellFormed refuses an ill-formed term of each kind -/

theorem test_wf_accepts : Instr.wf keys (.l (.name (bytes "x")) (.pin (.ind 2 1)) (.key (bytes "Setting"))) = true := by
  decide +kernel

theorem test_wf_pin_depth : Instr.wf keys (.clr (.pin (.ind 2 0))) = false := by decide +kernel

theorem test_wf_name_shape : Instr.wf keys (.push (.name (bytes "9x"))) = false := by decide +kernel

theorem test_wf_name_reserved : Instr.wf keys (.push (.name (bytes "r1"))) = false := by decide +kernel

theorem test_wf_name_is_key :
    Instr.wf keys (.l (.reg .sp) (.pin (.direct .db)) (.val (.name (bytes "Setting")))) = false := by decide +kernel

theorem test_wf_name_is_mode :
    Instr.wf keys (.lb (.reg .sp) (.num F64.one) (.key (bytes "On")) (.val (.name (bytes "Sum")))) = false := by
  decide +kernel

theorem test_wf_key_unknown :
    Instr.wf keys (.ls (.reg .sp) (.pin (.direct .db)) (.num F64.one) (.key (bytes "Setting"))) = false := by
  decide +kernel

theorem test_wf_key_shape :
    Instr.wf ⟨[bytes "9"], [], []⟩ (.l (.reg .sp) (.pin (.direct .db)) (.key (bytes "9"))) = false := by decide +kernel

theorem test_wf_new_name : Instr.wf keys (.define (bytes "sp") F64.one) = false := by decide +kernel

/-! ### Every constructor's decoding, from lines written out from the opcode table's encodings -/

theorem test_empty_lines : reads [("", .nop), ("  # only a comment", .nop), ("loop:", .nop)] = true := by decide +kernel

/-- The rows of 40_arith.md. -/
theorem test_arith_lines : reads [
    ("abs r3 rr4", .abs (.reg (.gpr 3 0)) (.reg (.gpr 4 1))),
    ("acos r3 rr4", .acos (.reg (.gpr 3 0)) (.reg (.gpr 4 1))),
    ("add r3 rr4 -2.5", .add (.reg (.gpr 3 0)) (.reg (.gpr 4 1)) (.num (.fin true 1024 0x4000000000000))),
    ("asin r3 rr4", .asin (.reg (.gpr 3 0)) (.reg (.gpr 4 1))),
    ("atan r3 rr4", .atan (.reg (.gpr 3 0)) (.reg (.gpr 4 1))),
    ("atan2 r3 rr4 -2.5", .atan2 (.reg (.gpr 3 0)) (.reg (.gpr 4 1)) (.num (.fin true 1024 0x4000000000000))),
    ("ceil r3 rr4", .ceil (.reg (.gpr 3 0)) (.reg (.gpr 4 1))),
    ("cos r3 rr4", .cos (.reg (.gpr 3 0)) (.reg (.gpr 4 1))),
    ("div r3 rr4 -2.5", .div (.reg (.gpr 3 0)) (.reg (.gpr 4 1)) (.num (.fin true 1024 0x4000000000000))),
    ("exp r3 rr4", .exp (.reg (.gpr 3 0)) (.reg (.gpr 4 1))),
    ("floor r3 rr4", .floor (.reg (.gpr 3 0)) (.reg (.gpr 4 1))),
    ("log r3 rr4", .log (.reg (.gpr 3 0)) (.reg (.gpr 4 1))),
    ("max r3 rr4 -2.5", .max (.reg (.gpr 3 0)) (.reg (.gpr 4 1)) (.num (.fin true 1024 0x4000000000000))),
    ("min r3 rr4 -2.5", .min (.reg (.gpr 3 0)) (.reg (.gpr 4 1)) (.num (.fin true 1024 0x4000000000000))),
    ("mod r3 rr4 -2.5", .mod (.reg (.gpr 3 0)) (.reg (.gpr 4 1)) (.num (.fin true 1024 0x4000000000000))),
    ("move r3 rr4", .move (.reg (.gpr 3 0)) (.reg (.gpr 4 1))),
    ("mul r3 rr4 -2.5", .mul (.reg (.gpr 3 0)) (.reg (.gpr 4 1)) (.num (.fin true 1024 0x4000000000000))),
    ("rand r3", .rand (.reg (.gpr 3 0))),
    ("round r3 rr4", .round (.reg (.gpr 3 0)) (.reg (.gpr 4 1))),
    ("select r3 rr4 -2.5 sp", .select (.reg (.gpr 3 0)) (.reg (.gpr 4 1)) (.num (.fin true 1024 0x4000000000000)) (.reg .sp)),
    ("sin r3 rr4", .sin (.reg (.gpr 3 0)) (.reg (.gpr 4 1))),
    ("sqrt r3 rr4", .sqrt (.reg (.gpr 3 0)) (.reg (.gpr 4 1))),
    ("sub r3 rr4 -2.5", .sub (.reg (.gpr 3 0)) (.reg (.gpr 4 1)) (.num (.fin true 1024 0x4000000000000))),
    ("tan r3 rr4", .tan (.reg (.gpr 3 0)) (.reg (.gpr 4 1))),
    ("trunc r3 rr4", .trunc (.reg (.gpr 3 0)) (.reg (.gpr 4 1)))] = true := by decide +kernel

/-- The rows of 41_bitwise.md. -/
theorem test_bitwise_lines : reads [
    ("and r3 rr4 -2.5", .and (.reg (.gpr 3 0)) (.reg (.gpr 4 1)) (.num (.fin true 1024 0x4000000000000))),
    ("nor r3 rr4 -2.5", .nor (.reg (.gpr 3 0)) (.reg (.gpr 4 1)) (.num (.fin true 1024 0x4000000000000))),
    ("not r3 rr4", .not (.reg (.gpr 3 0)) (.reg (.gpr 4 1))),
    ("or r3 rr4 -2.5", .or (.reg (.gpr 3 0)) (.reg (.gpr 4 1)) (.num (.fin true 1024 0x4000000000000))),
    ("sla r3 rr4 -2.5", .sla (.reg (.gpr 3 0)) (.reg (.gpr 4 1)) (.num (.fin true 1024 0x4000000000000))),
    ("sll r3 rr4 -2.5", .sll (.reg (.gpr 3 0)) (.reg (.gpr 4 1)) (.num (.fin true 1024 0x4000000000000))),
    ("sra r3 rr4 -2.5", .sra (.reg (.gpr 3 0)) (.reg (.gpr 4 1)) (.num (.fin true 1024 0x4000000000000))),
    ("srl r3 rr4 -2.5", .srl (.reg (.gpr 3 0)) (.reg (.gpr 4 1)) (.num (.fin true 1024 0x4000000000000))),
    ("xor r3 rr4 -2.5", .xor (.reg (.gpr 3 0)) (.reg (.gpr 4 1)) (.num (.fin true 1024 0x4000000000000)))] = true := by decide +kernel

/-- The rows of 42_compare.md. -/
theorem test_compare_lines : reads [
    ("sap r3 rr4 -2.5 sp", .sap (.reg (.gpr 3 0)) (.reg (.gpr 4 1)) (.num (.fin true 1024 0x4000000000000)) (.reg .sp)),
    ("sapz r3 rr4 -2.5", .sapz (.reg (.gpr 3 0)) (.reg (.gpr 4 1)) (.num (.fin true 1024 0x4000000000000))),
    ("seq r3 rr4 -2.5", .seq (.reg (.gpr 3 0)) (.reg (.gpr 4 1)) (.num (.fin true 1024 0x4000000000000))),
    ("seqz r3 rr4", .seqz (.reg (.gpr 3 0)) (.reg (.gpr 4 1))),
    ("sge r3 rr4 -2.5", .sge (.reg (.gpr 3 0)) (.reg (.gpr 4 1)) (.num (.fin true 1024 0x4000000000000))),
    ("sgez r3 rr4", .sgez (.reg (.gpr 3 0)) (.reg (.gpr 4 1))),
    ("sgt r3 rr4 -2.5", .sgt (.reg (.gpr 3 0)) (.reg (.gpr 4 1)) (.num (.fin true 1024 0x4000000000000))),
    ("sgtz r3 rr4", .sgtz (.reg (.gpr 3 0)) (.reg (.gpr 4 1))),
    ("sle r3 rr4 -2.5", .sle (.reg (.gpr 3 0)) (.reg (.gpr 4 1)) (.num (.fin true 1024 0x4000000000000))),
    ("slez r3 rr4", .slez (.reg (.gpr 3 0)) (.reg (.gpr 4 1))),
    ("slt r3 rr4 -2.5", .slt (.reg (.gpr 3 0)) (.reg (.gpr 4 1)) (.num (.fin true 1024 0x4000000000000))),
    ("sltz r3 rr4", .sltz (.reg (.gpr 3 0)) (.reg (.gpr 4 1))),
    ("sna r3 rr4 -2.5 sp", .sna (.reg (.gpr 3 0)) (.reg (.gpr 4 1)) (.num (.fin true 1024 0x4000000000000)) (.reg .sp)),
    ("snan r3 rr4", .snan (.reg (.gpr 3 0)) (.reg (.gpr 4 1))),
    ("snanz r3 rr4", .snanz (.reg (.gpr 3 0)) (.reg (.gpr 4 1))),
    ("snaz r3 rr4 -2.5", .snaz (.reg (.gpr 3 0)) (.reg (.gpr 4 1)) (.num (.fin true 1024 0x4000000000000))),
    ("sne r3 rr4 -2.5", .sne (.reg (.gpr 3 0)) (.reg (.gpr 4 1)) (.num (.fin true 1024 0x4000000000000))),
    ("snez r3 rr4", .snez (.reg (.gpr 3 0)) (.reg (.gpr 4 1)))] = true := by decide +kernel

/-- The rows of 43_device.md. -/
theorem test_device_lines : reads [
    ("clr d2", .clr (.pin (.direct (.d 2)))),
    ("clrd rr4", .clrd (.reg (.gpr 4 1))),
    ("get r3 d2 rr4", .get (.reg (.gpr 3 0)) (.pin (.direct (.d 2))) (.reg (.gpr 4 1))),
    ("getd r3 rr4 -2.5", .getd (.reg (.gpr 3 0)) (.reg (.gpr 4 1)) (.num (.fin true 1024 0x4000000000000))),
    ("l r3 d2 Setting", .l (.reg (.gpr 3 0)) (.pin (.direct (.d 2))) (.key (bytes "Setting"))),
    ("lb r3 rr4 Setting Sum", .lb (.reg (.gpr 3 0)) (.reg (.gpr 4 1)) (.key (bytes "Setting")) (.mode .sum)),
    ("lbn r3 rr4 -2.5 Setting Sum", .lbn (.reg (.gpr 3 0)) (.reg (.gpr 4 1)) (.num (.fin true 1024 0x4000000000000)) (.key (bytes "Setting")) (.mode .sum)),
    ("lbns r3 rr4 -2.5 sp Occupied Sum", .lbns (.reg (.gpr 3 0)) (.reg (.gpr 4 1)) (.num (.fin true 1024 0x4000000000000)) (.reg .sp) (.key (bytes "Occupied")) (.mode .sum)),
    ("lbs r3 rr4 -2.5 Occupied Sum", .lbs (.reg (.gpr 3 0)) (.reg (.gpr 4 1)) (.num (.fin true 1024 0x4000000000000)) (.key (bytes "Occupied")) (.mode .sum)),
    ("ld r3 rr4 Setting", .ld (.reg (.gpr 3 0)) (.reg (.gpr 4 1)) (.key (bytes "Setting"))),
    ("lr r3 d2 Contents rr4", .lr (.reg (.gpr 3 0)) (.pin (.direct (.d 2))) (.key (bytes "Contents")) (.reg (.gpr 4 1))),
    ("ls r3 d2 rr4 Occupied", .ls (.reg (.gpr 3 0)) (.pin (.direct (.d 2))) (.reg (.gpr 4 1)) (.key (bytes "Occupied"))),
    ("put d2 rr4 -2.5", .put (.pin (.direct (.d 2))) (.reg (.gpr 4 1)) (.num (.fin true 1024 0x4000000000000))),
    ("putd rr4 -2.5 sp", .putd (.reg (.gpr 4 1)) (.num (.fin true 1024 0x4000000000000)) (.reg .sp)),
    ("s d2 Setting rr4", .s (.pin (.direct (.d 2))) (.key (bytes "Setting")) (.reg (.gpr 4 1))),
    ("sb rr4 Setting -2.5", .sb (.reg (.gpr 4 1)) (.key (bytes "Setting")) (.num (.fin true 1024 0x4000000000000))),
    ("sbn rr4 -2.5 Setting sp", .sbn (.reg (.gpr 4 1)) (.num (.fin true 1024 0x4000000000000)) (.key (bytes "Setting")) (.reg .sp)),
    ("sbs rr4 -2.5 Occupied sp", .sbs (.reg (.gpr 4 1)) (.num (.fin true 1024 0x4000000000000)) (.key (bytes "Occupied")) (.reg .sp)),
    ("sd rr4 Setting -2.5", .sd (.reg (.gpr 4 1)) (.key (bytes "Setting")) (.num (.fin true 1024 0x4000000000000))),
    ("sdns r3 d2", .sdns (.reg (.gpr 3 0)) (.pin (.direct (.d 2)))),
    ("sdse r3 d2", .sdse (.reg (.gpr 3 0)) (.pin (.direct (.d 2)))),
    ("ss d2 rr4 Occupied -2.5", .ss (.pin (.direct (.d 2))) (.reg (.gpr 4 1)) (.key (bytes "Occupied")) (.num (.fin true 1024 0x4000000000000)))] = true := by decide +kernel

/-- The rows of 44_stack.md. -/
theorem test_stack_lines : reads [
    ("peek r3", .peek (.reg (.gpr 3 0))),
    ("poke rr4 -2.5", .poke (.reg (.gpr 4 1)) (.num (.fin true 1024 0x4000000000000))),
    ("pop r3", .pop (.reg (.gpr 3 0))),
    ("push rr4", .push (.reg (.gpr 4 1)))] = true := by decide +kernel

/-- The rows of 45_control.md. -/
theorem test_control_lines : reads [
    ("bap rr4 -2.5 sp x", .bap (.reg (.gpr 4 1)) (.num (.fin true 1024 0x4000000000000)) (.reg .sp) (.name (bytes "x"))),
    ("bapal rr4 -2.5 sp x", .bapal (.reg (.gpr 4 1)) (.num (.fin true 1024 0x4000000000000)) (.reg .sp) (.name (bytes "x"))),
    ("bapz rr4 -2.5 sp", .bapz (.reg (.gpr 4 1)) (.num (.fin true 1024 0x4000000000000)) (.reg .sp)),
    ("bapzal rr4 -2.5 sp", .bapzal (.reg (.gpr 4 1)) (.num (.fin true 1024 0x4000000000000)) (.reg .sp)),
    ("bdns d2 rr4", .bdns (.pin (.direct (.d 2))) (.reg (.gpr 4 1))),
    ("bdnsal d2 rr4", .bdnsal (.pin (.direct (.d 2))) (.reg (.gpr 4 1))),
    ("bdse d2 rr4", .bdse (.pin (.direct (.d 2))) (.reg (.gpr 4 1))),
    ("bdseal d2 rr4", .bdseal (.pin (.direct (.d 2))) (.reg (.gpr 4 1))),
    ("beq rr4 -2.5 sp", .beq (.reg (.gpr 4 1)) (.num (.fin true 1024 0x4000000000000)) (.reg .sp)),
    ("beqal rr4 -2.5 sp", .beqal (.reg (.gpr 4 1)) (.num (.fin true 1024 0x4000000000000)) (.reg .sp)),
    ("beqz rr4 -2.5", .beqz (.reg (.gpr 4 1)) (.num (.fin true 1024 0x4000000000000))),
    ("beqzal rr4 -2.5", .beqzal (.reg (.gpr 4 1)) (.num (.fin true 1024 0x4000000000000))),
    ("bge rr4 -2.5 sp", .bge (.reg (.gpr 4 1)) (.num (.fin true 1024 0x4000000000000)) (.reg .sp)),
    ("bgeal rr4 -2.5 sp", .bgeal (.reg (.gpr 4 1)) (.num (.fin true 1024 0x4000000000000)) (.reg .sp)),
    ("bgez rr4 -2.5", .bgez (.reg (.gpr 4 1)) (.num (.fin true 1024 0x4000000000000))),
    ("bgezal rr4 -2.5", .bgezal (.reg (.gpr 4 1)) (.num (.fin true 1024 0x4000000000000))),
    ("bgt rr4 -2.5 sp", .bgt (.reg (.gpr 4 1)) (.num (.fin true 1024 0x4000000000000)) (.reg .sp)),
    ("bgtal rr4 -2.5 sp", .bgtal (.reg (.gpr 4 1)) (.num (.fin true 1024 0x4000000000000)) (.reg .sp)),
    ("bgtz rr4 -2.5", .bgtz (.reg (.gpr 4 1)) (.num (.fin true 1024 0x4000000000000))),
    ("bgtzal rr4 -2.5", .bgtzal (.reg (.gpr 4 1)) (.num (.fin true 1024 0x4000000000000))),
    ("ble rr4 -2.5 sp", .ble (.reg (.gpr 4 1)) (.num (.fin true 1024 0x4000000000000)) (.reg .sp)),
    ("bleal rr4 -2.5 sp", .bleal (.reg (.gpr 4 1)) (.num (.fin true 1024 0x4000000000000)) (.reg .sp)),
    ("blez rr4 -2.5", .blez (.reg (.gpr 4 1)) (.num (.fin true 1024 0x4000000000000))),
    ("blezal rr4 -2.5", .blezal (.reg (.gpr 4 1)) (.num (.fin true 1024 0x4000000000000))),
    ("blt rr4 -2.5 sp", .blt (.reg (.gpr 4 1)) (.num (.fin true 1024 0x4000000000000)) (.reg .sp)),
    ("bltal rr4 -2.5 sp", .bltal (.reg (.gpr 4 1)) (.num (.fin true 1024 0x4000000000000)) (.reg .sp)),
    ("bltz rr4 -2.5", .bltz (.reg (.gpr 4 1)) (.num (.fin true 1024 0x4000000000000))),
    ("bltzal rr4 -2.5", .bltzal (.reg (.gpr 4 1)) (.num (.fin true 1024 0x4000000000000))),
    ("bna rr4 -2.5 sp x", .bna (.reg (.gpr 4 1)) (.num (.fin true 1024 0x4000000000000)) (.reg .sp) (.name (bytes "x"))),
    ("bnaal rr4 -2.5 sp x", .bnaal (.reg (.gpr 4 1)) (.num (.fin true 1024 0x4000000000000)) (.reg .sp) (.name (bytes "x"))),
    ("bnan rr4 -2.5", .bnan (.reg (.gpr 4 1)) (.num (.fin true 1024 0x4000000000000))),
    ("bnaz rr4 -2.5 sp", .bnaz (.reg (.gpr 4 1)) (.num (.fin true 1024 0x4000000000000)) (.reg .sp)),
    ("bnazal rr4 -2.5 sp", .bnazal (.reg (.gpr 4 1)) (.num (.fin true 1024 0x4000000000000)) (.reg .sp)),
    ("bne rr4 -2.5 sp", .bne (.reg (.gpr 4 1)) (.num (.fin true 1024 0x4000000000000)) (.reg .sp)),
    ("bneal rr4 -2.5 sp", .bneal (.reg (.gpr 4 1)) (.num (.fin true 1024 0x4000000000000)) (.reg .sp)),
    ("bnez rr4 -2.5", .bnez (.reg (.gpr 4 1)) (.num (.fin true 1024 0x4000000000000))),
    ("bnezal rr4 -2.5", .bnezal (.reg (.gpr 4 1)) (.num (.fin true 1024 0x4000000000000))),
    ("brap rr4 -2.5 sp x", .brap (.reg (.gpr 4 1)) (.num (.fin true 1024 0x4000000000000)) (.reg .sp) (.name (bytes "x"))),
    ("brapz rr4 -2.5 sp", .brapz (.reg (.gpr 4 1)) (.num (.fin true 1024 0x4000000000000)) (.reg .sp)),
    ("brdns d2 rr4", .brdns (.pin (.direct (.d 2))) (.reg (.gpr 4 1))),
    ("brdse d2 rr4", .brdse (.pin (.direct (.d 2))) (.reg (.gpr 4 1))),
    ("breq rr4 -2.5 sp", .breq (.reg (.gpr 4 1)) (.num (.fin true 1024 0x4000000000000)) (.reg .sp)),
    ("breqz rr4 -2.5", .breqz (.reg (.gpr 4 1)) (.num (.fin true 1024 0x4000000000000))),
    ("brge rr4 -2.5 sp", .brge (.reg (.gpr 4 1)) (.num (.fin true 1024 0x4000000000000)) (.reg .sp)),
    ("brgez rr4 -2.5", .brgez (.reg (.gpr 4 1)) (.num (.fin true 1024 0x4000000000000))),
    ("brgt rr4 -2.5 sp", .brgt (.reg (.gpr 4 1)) (.num (.fin true 1024 0x4000000000000)) (.reg .sp)),
    ("brgtz rr4 -2.5", .brgtz (.reg (.gpr 4 1)) (.num (.fin true 1024 0x4000000000000))),
    ("brle rr4 -2.5 sp", .brle (.reg (.gpr 4 1)) (.num (.fin true 1024 0x4000000000000)) (.reg .sp)),
    ("brlez rr4 -2.5", .brlez (.reg (.gpr 4 1)) (.num (.fin true 1024 0x4000000000000))),
    ("brlt rr4 -2.5 sp", .brlt (.reg (.gpr 4 1)) (.num (.fin true 1024 0x4000000000000)) (.reg .sp)),
    ("brltz rr4 -2.5", .brltz (.reg (.gpr 4 1)) (.num (.fin true 1024 0x4000000000000))),
    ("brna rr4 -2.5 sp x", .brna (.reg (.gpr 4 1)) (.num (.fin true 1024 0x4000000000000)) (.reg .sp) (.name (bytes "x"))),
    ("brnan rr4 -2.5", .brnan (.reg (.gpr 4 1)) (.num (.fin true 1024 0x4000000000000))),
    ("brnaz rr4 -2.5 sp", .brnaz (.reg (.gpr 4 1)) (.num (.fin true 1024 0x4000000000000)) (.reg .sp)),
    ("brne rr4 -2.5 sp", .brne (.reg (.gpr 4 1)) (.num (.fin true 1024 0x4000000000000)) (.reg .sp)),
    ("brnez rr4 -2.5", .brnez (.reg (.gpr 4 1)) (.num (.fin true 1024 0x4000000000000))),
    ("j rr4", .j (.reg (.gpr 4 1))),
    ("jal rr4", .jal (.reg (.gpr 4 1))),
    ("jr rr4", .jr (.reg (.gpr 4 1)))] = true := by decide +kernel

/-- The rows of 46_system.md. -/
theorem test_system_lines : reads [
    ("alias foo dr7", .aliasOp (bytes "foo") (.pin (.ind 7 1))),
    ("define foo $10", .define (bytes "foo") (.fin false 1027 0)),
    ("hcf", .hcf),
    ("label d2 foo", .label (.pin (.direct (.d 2))) (bytes "foo")),
    ("sleep rr4", .sleep (.reg (.gpr 4 1))),
    ("yield", .yield)] = true := by decide +kernel

/-- Table words: the bytes of the line, the first in the low bits ("j ra", "yield"). -/
theorem test_table_word :
    wordBytes 32 0x6172206A = bytes "j ra" ∧ wordBytes 40 0x646C656979 = bytes "yield" ∧
    wordBytes 48 0x006172206A = bytes "j ra" ∧
    decodeTableWord 40 0x646C656979 = some .yield ∧ decodeTableWord 32 0x6172206A = some (.j (.reg .ra)) ∧
    decodeTableWord 24 0x706F6E = none ∧ decodeTableWord 0 0 = some .nop := by
  decide +kernel

/-- Refused lines (95_test_vectors.md L2.1): the error and its column. -/
theorem test_refused_lines :
    (["foo r0", "nop", "move r0", "move r0 1 2", "move 3 r0", "l r0 r1 Setting", "move r18 1", "l r0 d6 On",
      "l r0 dd0 On", "a: move r0 1"].map fun l => errorOf (decode keys (bytes l))) =
    [some (.unknownInstruction, 0), some (.unknownInstruction, 0), some (.arityMismatch, 0), some (.arityMismatch, 0),
      some (.arityMismatch, 5), some (.arityMismatch, 5), some (.malformedOperand, 5), some (.malformedOperand, 5),
      some (.malformedOperand, 5), some (.malformedOperand, 3)] := by
  decide +kernel

/-- Tokens that begin with two letters `d` (R316, R318): only digits right after them are refused. -/
theorem test_doubled_pin_letter :
    Lexer.lex (bytes "dd0") = .malformed ∧ Lexer.lex (bytes "ddr0") = .ident (bytes "ddr0") ∧
    Lexer.lex (bytes "ddd0") = .ident (bytes "ddd0") ∧
    (decode keys (bytes "alias ddr0 r1")).toOption = some (.aliasOp (bytes "ddr0") (.reg (.gpr 1 0))) := by
  decide +kernel

/-- The line ends of a test program. -/
def lines (l : List String) : List Byte := (l.map fun t => bytes t ++ [0x0A#8]).flatten.dropLast

/-- Refused programs (L2.1): kind, code, line and column. -/
theorem test_refused_programs :
    ([["move r0 x"], ["move R0 1"], ["a:", "a:"], ["alias r0 r1"], ["alias p 5"], ["define N 1", "define N 2"],
      ["alias p r0", "alias p d0"], ["move r0 1", "foo", "move r9"], ["define bar 10", "move bar 3"]].map fun l =>
      errorOf (parseProgram params (lines l))) =
    [some ⟨.unresolvedName, 3, 0, 8⟩, some ⟨.unresolvedName, 3, 0, 5⟩, some ⟨.duplicateLabel, 5, 1, 0⟩,
      some ⟨.malformedOperand, 4, 0, 6⟩, some ⟨.arityMismatch, 2, 0, 8⟩, some ⟨.malformedOperand, 4, 1, 7⟩,
      some ⟨.malformedOperand, 4, 1, 6⟩, some ⟨.unknownInstruction, 1, 1, 0⟩, some ⟨.arityMismatch, 2, 1, 5⟩] := by
  decide +kernel

/-- A name that only an `alias` line without a category names is not bound (log 24). -/
theorem test_bad_alias_binds_nothing :
    errorOf (parseProgram params (lines ["move r0 foo", "alias foo 5"])) = some ⟨.unresolvedName, 3, 0, 8⟩ := by
  decide +kernel

/-- Program P2 of L3 up to its label: records, columns, label table. -/
theorem test_loaded_program :
    (parseProgram params (lines ["define N 4", "alias acc r1", "move r0 N", "loop:", "bgtz r0 loop"])).toOption =
    some ([⟨.define (bytes "N") (.fin false 1025 0), 0, [7, 9]⟩,
      ⟨.aliasOp (bytes "acc") (.reg (.gpr 1 0)), 1, [6, 10]⟩,
      ⟨.move (.reg (.gpr 0 0)) (.name (bytes "N")), 2, [5, 8]⟩, ⟨.nop, 3, []⟩,
      ⟨.bgtz (.reg (.gpr 0 0)) (.name (bytes "loop")), 4, [5, 8]⟩], [(bytes "loop", 3)]) := by
  decide +kernel

/-! ### Results (95_test_vectors.md L1 and L2.2 to L2.5, and the examples of the rules) -/

theorem test_arith_results : gives demo [
    ("add r0 1 2", "3"), ("add r0 pinf ninf", "nan"), ("add r0 -0 -0", "-0"), ("add r0 -0 0", "0"),
    ("add r0 1.7976931348623157e308 1.7976931348623157e308", "pinf"), ("sub r0 1 3", "-2"), ("sub r0 -0 0", "-0"),
    ("mul r0 -3 4", "-12"), ("mul r0 -2 0", "-0"), ("mul r0 0 pinf", "nan"), ("div r0 1 0", "pinf"), ("div r0 0 0", "nan"),
    ("div r0 -1 0", "ninf"), ("div r0 1 -0", "ninf"), ("div r0 1 pinf", "0"), ("mod r0 7 3", "1"), ("mod r0 -1 3", "2"),
    ("mod r0 5 -3", "2"), ("mod r0 -5 -3", "-5"), ("mod r0 1 0", "nan"), ("mod r0 7 pinf", "7"), ("abs r0 -0", "0"),
    ("abs r0 -2.5", "2.5"), ("sqrt r0 -1", "nan"), ("sqrt r0 -0", "-0"), ("sqrt r0 2", "1.4142135623730951"),
    ("ceil r0 -0.5", "-0"), ("ceil r0 1.2", "2"), ("floor r0 -0.5", "-1"), ("floor r0 1.8", "1"), ("round r0 2.5", "3"),
    ("round r0 -2.5", "-3"), ("round r0 -0.4", "-0"), ("trunc r0 -1.7", "-1"), ("trunc r0 -3.9", "-3"),
    ("max r0 nan 1", "nan"), ("max r0 -0 0", "0"), ("max r0 3 -7", "3"), ("min r0 0 -0", "-0"), ("min r0 3 -7", "-7"),
    ("move r0 nan", "nan"), ("select r0 nan 10 20", "10"), ("select r0 -0 10 20", "20")] = true := by
  decide +kernel

theorem test_round_even : gives { demo with params := { params with roundHalf := .even } } [
    ("round r0 2.5", "2"), ("round r0 -2.5", "-2")] = true := by
  decide +kernel

theorem test_math_results : gives demo [
    ("exp r0 ninf", "0"), ("exp r0 0", "1"), ("log r0 0", "ninf"), ("log r0 -1", "nan"), ("log r0 1", "0"),
    ("sin r0 pinf", "nan"), ("sin r0 0", "0"), ("cos r0 -0", "1"), ("tan r0 0", "0"), ("asin r0 2", "nan"),
    ("asin r0 0", "0"), ("acos r0 1", "0"), ("atan r0 pinf", "1.5707963267948966"), ("atan r0 0", "0"),
    ("atan2 r0 1 1", "0.7853981633974483"), ("atan2 r0 -0 -1", "-3.141592653589793")] = true := by
  decide +kernel

theorem test_bitwise_results : gives demo [
    ("and r0 12 10", "8"), ("and r0 3.9 1.2", "1"), ("and r0 nan 1", "0"), ("and r0 pinf -1", "9223372036854775808"),
    ("or r0 12 10", "14"), ("or r0 -0.5 0", "0"), ("xor r0 12 10", "6"), ("nor r0 12 10", "-15"), ("nor r0 0 0", "-1"),
    ("not r0 5.7", "-6"), ("not r0 nan", "-1"), ("sll r0 1 4", "16"), ("sll r0 1 63", "-9223372036854775808"),
    ("sll r0 1 64", "0"), ("sll r0 1 -1", "0"), ("sll r0 1 2.9", "4"), ("sla r0 -1 1", "-2"), ("sla r0 3 2", "12"),
    ("srl r0 16 2", "4"), ("srl r0 -1 60", "15"), ("srl r0 -1 1", "9223372036854775808"), ("sra r0 -16 2", "-4"),
    ("sra r0 -5 1", "-3"), ("sra r0 -16 64", "-1"), ("sra r0 16 64", "0")] = true := by
  decide +kernel

theorem test_bitwise_i53 : gives { demo with params := { params with bitwise := .i53 } } [
    ("srl r0 -1 1", "4503599627370495")] = true := by
  decide +kernel

theorem test_compare_results : gives demo [
    ("seq r0 -0 0", "1"), ("seq r0 nan nan", "0"), ("seq r0 pinf pinf", "1"), ("seqz r0 -0", "1"), ("sne r0 nan nan", "1"),
    ("snez r0 nan", "1"), ("slt r0 1 2", "1"), ("slt r0 nan 2", "0"), ("sltz r0 -0", "0"), ("sltz r0 -1", "1"),
    ("sle r0 2 2", "1"), ("slez r0 ninf", "1"), ("sgt r0 ninf -1e308", "0"), ("sgt r0 3 2", "1"), ("sgtz r0 nan", "0"),
    ("sgtz r0 1", "1"), ("sge r0 nan nan", "0"), ("sge r0 2 3", "0"), ("sgez r0 -0", "1"), ("sap r0 1 1.05 0.1", "1"),
    ("sap r0 1 1.2 0.1", "0"), ("sap r0 pinf pinf 0", "0"), ("sap r0 5 5 0", "1"), ("sapz r0 0 0", "1"),
    ("sapz r0 nan 0", "0"), ("sapz r0 -0 pinf", "0"), ("sna r0 1 1.2 0.1", "1"), ("snaz r0 1 0", "1"), ("snan r0 nan", "1"), ("snan r0 pinf", "0"),
    ("snanz r0 nan", "0"), ("snanz r0 5", "1")] = true := by
  decide +kernel

/-- Indirect operands (L2.2). -/
theorem test_indirection :
    gives (regs [(1, 3), (3, 7), (2, 1)]) [("move r0 rr1", "7"), ("move r0 rrr2", "7"), ("add r0 r3 r3", "14")] = true ∧
    gives (regs [(1, 0)]) [("move rr1 5", "5")] = true ∧
    crashes (regs [(0, 18), (1, -1)]) [("move r2 rr0", .invalidRegisterIndex, 18), ("move r2 rr1", .invalidRegisterIndex, 18),
      ("move r2 rrrr0", .invalidIndirectionDepth, 19), ("move r2 N", .unresolvedName, 24)] = true := by
  decide +kernel

/-! ### Device instructions (L2.6) -/

/-- The test state with the given answers of the host. -/
def host (ids : List (Option Handle)) (sets : List (List Handle)) (rs : List ReadAnswer) (ws : List WriteAnswer) : State :=
  { demo with port := { demo.port with idTape := ids, setTape := sets, readTape := rs, writeTape := ws } }

theorem test_device_reads :
    gives (host [some 50] [[30, 31, 32]] [.value (F64.ofInt 2), .value (F64.ofInt 4), .value (F64.ofInt 6)] []) [
      ("l r0 d0 Setting", "2"), ("ls r0 d0 0 Occupied", "2"), ("lr r0 d0 Contents 5", "2"), ("ld r0 1234 Setting", "2"),
      ("get r0 d1 5", "2"), ("getd r0 1234 0", "2"), ("lb r0 7 Setting Average", "4"), ("lb r0 7 Setting Sum", "12"),
      ("lb r0 7 Setting Minimum", "2"), ("lb r0 7 Setting Maximum", "6"), ("lb r0 7 Setting 1", "12"),
      ("lbn r0 7 20 Setting Sum", "12"), ("lbs r0 5 0 Occupied Sum", "12"), ("lbns r0 5 6 0 Occupied Average", "4"),
      ("sdse r0 d0", "1"), ("sdse r0 d3", "0"), ("sdns r0 d3", "1"), ("sdns r0 d0", "0")] = true ∧
    gives (host [] [[]] [] []) [("lb r0 8 Setting Average", "0"), ("lbs r0 5 0 Occupied Maximum", "0")] = true ∧
    gives (host [] [[30, 31]] [.value F64.one, .value .nan] []) [("lb r0 7 Setting Maximum", "nan")] = true := by
  decide +kernel

theorem test_device_writes :
    callsOf (host [some 50] [[30, 31]] [] [.done, .done]) [
      ("s d0 Setting nan", [.resolvePin (.d 0), .write 10 (.named (bytes "Setting")) .nan]),
      ("s db On 1", [.resolvePin .db, .write 20 (.named (bytes "On")) F64.one]),
      ("ss d0 0 Lock 1", [.resolvePin (.d 0), .writeSlot 10 F64.zero (.named (bytes "Lock")) F64.one]),
      ("sd 1 On 0", [.resolveId F64.one, .write 50 (.named (bytes "On")) F64.zero]),
      ("put d1 1 0", [.resolvePin (.d 1), .writeMem 11 F64.one F64.zero]),
      ("putd 1 0 1", [.resolveId F64.one, .writeMem 50 F64.zero F64.one]),
      ("clr d2", [.resolvePin (.d 2), .clearMem 12]), ("clrd 1", [.resolveId F64.one, .clearMem 50]),
      ("sb 1 On 1", [.resolveHash F64.one none, .write 30 (.named (bytes "On")) F64.one,
        .write 31 (.named (bytes "On")) F64.one]),
      ("sbn 1 0 On 1", [.resolveHash F64.one (some F64.zero), .write 30 (.named (bytes "On")) F64.one,
        .write 31 (.named (bytes "On")) F64.one]),
      ("sbs 1 0 Lock 1", [.resolveHash F64.one none, .writeSlot 30 F64.zero (.named (bytes "Lock")) F64.one,
        .writeSlot 31 F64.zero (.named (bytes "Lock")) F64.one])] = true := by
  decide +kernel

theorem test_device_errors :
    crashes (host [none] [[30, 31]] [.value F64.one, .fails .permissionDenied] [.done, .fails .permissionDenied]) [
      ("l r0 d3 Setting", .deviceNotFound, 20), ("ld r0 99 Setting", .deviceNotFound, 20),
      ("lb r0 7 Setting 9", .invalidLogicType, 21), ("lb r0 7 Setting Sum", .permissionDenied, 23),
      ("sb 7 On 1", .permissionDenied, 23)] = true ∧
    crashes (regs [(1, 6)]) [("l r0 dr1 Setting", .deviceNotFound, 20), ("sdse r0 dr1", .deviceNotFound, 20)] = true := by
  decide +kernel

/-- The housing's memory (R731). -/
theorem test_housing_memory :
    gives { demo with params := { params with dbMemoryIsStack := true }, stack := [(3, F64.ofInt 6)] } [
      ("get r0 db 3", "6")] = true ∧
    crashes { demo with params := { params with dbMemoryIsStack := true } } [("put db 512 1", .stackOverflow, 16)] = true := by
  decide +kernel

/-! ### Stack (L2.7) -/

/-- The test state with the given `sp` and stack. -/
def stacked (sp : Option F64) (m : Memory) : State := { demo with sp := sp.getD .nan, stack := m }

/-- Each line, run with the given `sp` and stack, completes with the given stack and `sp`. -/
def pushes (cases : List (String × Memory × String × Memory × Int)) : Bool :=
  cases.all fun p =>
    match run (stacked (lit p.1) p.2.1) p.2.2.1 with
    | some t => t.stack == p.2.2.2.1 && t.sp == F64.ofInt p.2.2.2.2 && !t.crashed
    | none => false

theorem test_stack_results : pushes [
    ("0", [], "push 7", [(0, F64.ofInt 7)], 1), ("511", [], "push 3", [(511, F64.ofInt 3)], 512),
    ("2.7", [], "push 1", [(2, F64.one)], 3), ("-0.5", [], "push 1", [(0, F64.one)], 1), ("4", [], "push sp", [(4, F64.ofInt 4)], 5),
    ("2", [(1, F64.ofInt 9)], "pop sp", [(1, F64.ofInt 9)], 9), ("2", [(1, F64.ofInt 9)], "pop r0", [(1, F64.ofInt 9)], 1),
    ("0.5", [(0, F64.ofInt 4)], "pop r0", [(0, F64.ofInt 4)], 0), ("0", [], "poke 511.9 1", [(511, F64.one)], 0)] = true ∧
    gives (stacked (lit "512") [(511, F64.ofInt 2)]) [("peek r0", "2"), ("pop r0", "2")] = true := by
  decide +kernel

theorem test_stack_errors :
    crashes (stacked (lit "512") []) [("push 1", .stackOverflow, 16)] = true ∧
    crashes (stacked (lit "513") []) [("pop r0", .stackOverflow, 16)] = true ∧
    crashes (stacked (lit "-1") []) [("push 1", .stackUnderflow, 17)] = true ∧
    crashes (stacked none []) [("push 1", .stackUnderflow, 17)] = true ∧
    crashes demo [("pop r0", .stackUnderflow, 17), ("peek r1", .stackUnderflow, 17), ("poke 512 1", .stackOverflow, 16)] = true := by
  decide +kernel

/-- `push` through `r16` when `sp` is that register (L2.2, R103). -/
theorem test_aliased_stack_pointer :
    (run { regs [(16, 4)] with params := { params with spRaAliased := true } } "push 9").map
      (fun t => (t.stack, t.x.get 16)) = some ([(4, F64.ofInt 9)], F64.ofInt 5) := by
  decide +kernel

/-! ### Control transfer (L2.8) -/

theorem test_jumps : goes { demo with ra := F64.ofInt 7 } [
    (0, "j 2.9", 2, 7), (0, "j -0.5", 0, 7), (2, "jal 5", 5, 3), (2, "jal ra", 7, 3), (4, "jr 3", 7, 7), (3, "jr 0", 3, 7)] = true ∧
    crashes demo [("j nan", .invalidProgramCounter, 22), ("j 10", .invalidProgramCounter, 22),
      ("jal 10", .invalidProgramCounter, 22), ("jr -1", .invalidProgramCounter, 22)] = true := by
  decide +kernel

theorem test_branches : goes { demo with ra := F64.ofInt 7 } [
    (0, "beq 1 1 7", 7, 7), (0, "beq nan nan 7", 1, 7), (0, "beq 1 2 99", 1, 7), (2, "beqal 1 1 7", 7, 3),
    (2, "beqal 1 2 7", 3, 7), (5, "breq 1 1 -2", 3, 7), (0, "beqz -0 4", 4, 7), (0, "bne nan nan 6", 6, 7),
    (0, "blt 1 2 6", 6, 7), (0, "ble 2 2 6", 6, 7), (0, "bgt nan 0 6", 1, 7), (0, "bge 0 -0 6", 6, 7), (0, "bltz -1 6", 6, 7),
    (0, "bgezal 0 6", 6, 1), (6, "brgtz 1 -6", 0, 7), (0, "bap 1 1.05 0.1 7", 7, 7), (0, "bna 1 1.05 0.1 7", 1, 7),
    (0, "bna nan 1 0 7", 7, 7), (0, "bapz 0 0.1 4", 4, 7), (0, "bnan nan 4", 4, 7), (0, "bnan pinf 4", 1, 7),
    (5, "brnan nan -5", 0, 7), (0, "bdse d0 4", 4, 7), (0, "bdse d3 4", 1, 7), (0, "bdns d3 4", 4, 7),
    (1, "bdnsal d3 4", 4, 2)] = true := by
  decide +kernel

theorem test_linking_branches : goes { demo with ra := F64.ofInt 7 } [
    (1, "bneal 1 2 6", 6, 2), (1, "bltal 1 2 6", 6, 2), (1, "bleal 3 2 6", 2, 7), (1, "bgtal 3 2 6", 6, 2),
    (1, "bgeal 1 2 6", 2, 7), (1, "beqzal 0 6", 6, 2), (1, "bnezal 0 6", 2, 7), (1, "bltzal 0 6", 2, 7),
    (1, "blezal 0 6", 6, 2), (1, "bgtzal 0 6", 2, 7), (1, "bapal 1 1 0 6", 6, 2), (1, "bnaal 1 2 0 6", 6, 2),
    (1, "bapzal 1 0 6", 2, 7), (1, "bnazal 1 0 6", 6, 2), (1, "bdseal d0 6", 6, 2), (1, "brne 1 2 6", 7, 7),
    (1, "brlt 1 2 6", 7, 7), (1, "brle 3 2 6", 2, 7), (1, "brgt 3 2 6", 7, 7), (1, "brge 1 2 6", 2, 7),
    (1, "breqz 0 6", 7, 7), (1, "brnez 0 6", 2, 7), (1, "brltz 0 6", 2, 7), (1, "brlez 0 6", 7, 7), (1, "brgez 0 6", 7, 7),
    (1, "brap 1 1 0 6", 7, 7), (1, "brna 1 2 0 6", 7, 7), (1, "brapz 1 0 6", 2, 7), (1, "brnaz 1 0 6", 7, 7),
    (1, "brdse d0 6", 7, 7), (1, "brdns d0 6", 2, 7), (0, "bnez 1 6", 6, 7), (0, "blez 1 6", 1, 7), (0, "bgtz 1 6", 6, 7),
    (0, "bgez 1 6", 6, 7), (0, "bnaz 1 0 6", 6, 7)] = true := by
  decide +kernel

/-! ### System instructions, the tick and the host's commands (L2.9) -/

theorem test_system_results :
    (run demo "yield").map (·.status) = some .yielded ∧
    (run { demo with now := F64.ofInt 10 } "sleep 2").map (fun t => (t.status, t.resume)) =
      some (.sleeping (F64.ofInt 12), some (F64.ofInt 12)) ∧
    (run { demo with now := F64.ofInt 5 } "sleep -1").map (·.status) = some (.sleeping (F64.ofInt 5)) ∧
    (run { demo with now := F64.ofInt 5 } "sleep nan").map (·.status) = some (.sleeping (F64.ofInt 5)) ∧
    crashes { demo with pc := 3 } [("hcf", .halt, 25)] = true ∧
    callsOf demo [("label d0 Pump", [])] = true ∧
    (run demo "alias foo r1").map (·.aliases) = some [(bytes "foo", .reg (.gpr 1 0))] ∧
    (run { demo with defines := [(bytes "N", F64.one)] } "define N 4").map (·.defines) = some [(bytes "N", F64.one)] := by
  decide +kernel

/-- The state after a step. -/
def stepped (s : State) : State :=
  match Sys2Proof.Machine.step s with
  | .next t => t
  | _ => s

/-- Between ticks, asleep until 12, with commands of the host waiting. -/
def asleep (commands : List Command) : State := { demo with
  inTick := false
  status := .sleeping (F64.ofInt 12)
  resume := some (F64.ofInt 12)
  commands := commands }

theorem test_tick_edges :
    (stepped { demo with ic := 32 }).status = .yielded ∧ (stepped { demo with ic := 32 }).inTick = false ∧
    (stepped { demo with pc := 10 }).error = some ⟨.invalidProgramCounter, 22, 10⟩ ∧
    (stepped { demo with pc := 10, params := { params with endOfProgram := .ends } }).status = .ready ∧
    (stepped (asleep [.runTick (F64.ofInt 11)])).inTick = false ∧
    (stepped (asleep [.runTick (F64.ofInt 12)])).inTick = true ∧
    (stepped { asleep [.runTick (.inf false)] with status := .sleeping (.inf false) }).inTick = true ∧
    (stepped (asleep [.load (lines ["j 0", "hcf"])])).program =
      some [⟨.j (.num F64.zero), 0, [2]⟩, ⟨.hcf, 1, []⟩] ∧
    (stepped (asleep [.load (bytes "foo")])).status = .noProgram := by
  decide +kernel

/-- A table word placed at reset is the next instruction ("yield"). -/
theorem test_first_instruction :
    (stepped (State.reset.withFetchWord 40 0x646C656979)).status = .yielded ∧
    (stepped (State.reset.withFetchWord 40 0x646C656979)).pc = 1 := by
  decide +kernel

/-! ### Witnesses: a concrete state and operands that meet the hypotheses of each statement, clause by clause -/

/-- An integer datum. -/
def v (i : Int) : F64 := F64.ofInt i

/-- The test state with boundary values in its registers, and a name of each category. -/
def wit : State := { demo with
  x := #v[.nan, v 1, v (-1), v 17, v 18, v 5, v 6, v 0, .inf false, v 9, v 10, v 0, v 0, v 0, v 0, v 0, v 0, v 0]
  aliases := [(bytes "a", .reg (.gpr 1 0)), (bytes "p", .pin (.direct (.d 0)))]
  defines := [(bytes "c", v 3)]
  labels := [(bytes "l", 2)] }

def r (i : Fin 18) : RegOp := .reg (.gpr i 0)

/-- An operand that raises InvalidRegisterIndex in `wit`: a hop through 18. -/
def badVal : ValOp := .reg (.gpr 4 1)
def badReg : RegOp := .reg (.gpr 4 1)

theorem wit_badVal : wit.value badVal = .error (.raised .invalidRegisterIndex) := error_of (by decide +kernel)
theorem wit_badReg : wit.dest badReg = .error (.raised .invalidRegisterIndex) := error_of (by decide +kernel)

theorem witness_DecodeAfterEncode : Instr.wf keys (.lb (r 0) (.num .nan) (.key (bytes "On")) (.mode .sum)) = true := by
  decide +kernel

theorem witness_TableWordAfterEncode :
    Instr.wf Config.params.keyNames (.add (r 0) (.name (bytes "x")) (.num F64.one)) = true ∧
    Instr.wf Config.params.keyNames (.aliasOp (bytes "x") (.pin (.ind 17 1))) = true := by
  decide +kernel

theorem witness_LoadIsAllOrNothing :
    parseProgram params (bytes "foo") = .error ⟨.unknownInstruction, 1, 0, 0⟩ ∧
    parseProgram params (bytes "yield") = .ok ([⟨.yield, 0, []⟩], []) :=
  ⟨error_of (by decide +kernel), ok_of (by decide +kernel)⟩

/-- Two lines under `MAX_LINES = 2`, the second a label line; three are refused. -/
theorem witness_LoadedRecordsAreTheLines :
    parseProgram { params with maxLines := some 2 } (lines ["j loop", " loop:"]) =
      .ok ([⟨.j (.name (bytes "loop")), 0, [2]⟩, ⟨.nop, 1, []⟩], [(bytes "loop", 1)]) ∧
    Decoder.decodeLine ⟨keys, none⟩ (bytes " loop:") = .ok (.label (bytes "loop") 1) ∧
    errorOf (parseProgram { params with maxLines := some 2 } (lines ["yield", "hcf", "hcf"])) ≠ none :=
  ⟨ok_of (by decide +kernel), ok_of (by decide +kernel), by decide +kernel⟩

/-- A tie (half a unit), the largest datum, and the first magnitude that rounds to infinity. -/
theorem witness_RoundingIsToNearestEven :
    F64.roundUnits false 1 2 = F64.zero ∧ F64.roundUnits false 3 2 = .fin false 0 2 ∧
    F64.roundUnits true ((2 ^ 54 - 1) * 2 ^ 2044 - 1) 1 = .fin true 2046 0xFFFFFFFFFFFFF ∧
    F64.roundUnits true ((2 ^ 54 - 1) * 2 ^ 2044) 1 = .inf true := by
  decide +kernel

/-- An exact zero sum and another, and a divisor and a factor of each kind. -/
theorem witness_RoundingIsToNearestEven_operands :
    (F64.signedUnits true 0 0 + F64.signedUnits true 0 0 = 0 ∧ F64.signedUnits false 0 1 + F64.signedUnits true 0 1 = 0) ∧
    F64.signedUnits true 0 1 + F64.signedUnits false 0 0 ≠ 0 ∧ F64.units 0 1 ≠ 0 ∧ F64.units 0 0 = 0 := by
  decide +kernel

theorem witness_RemainderIsExact : F64.units 0 1 ≠ 0 ∧ F64.units 2046 0 ≠ 0 ∧ F64.units 0 0 = 0 := by decide +kernel

theorem witness_SquareRootIsNearest : F64.units 0 1 ≠ 0 ∧
    F64.sqrt (.fin false 1024 0) = .fin false 1023 0x6A09E667F3BCD := by
  decide +kernel

theorem witness_IntegersConvertExactly :
    (2 ^ 53 : Int).natAbs ≤ 2 ^ 53 ∧ (-(2 ^ 53) : Int).natAbs ≤ 2 ^ 53 ∧
    (2 ^ 53 : Int) < (2 ^ (bitWidth .i64 - 1) : Nat) ∧ -(2 ^ (bitWidth .i53 - 1) : Nat) ≤ (-(2 ^ 52) : Int) := by
  decide +kernel

theorem witness_OrderOfData : (F64.zero ≠ .nan ∧ F64.zeroOf true ≠ .nan) ∧ (F64.nan = .nan ∨ F64.one = .nan) := by
  decide +kernel

theorem witness_MathLibRequiredValues :
    F64.gt (F64.abs (v (-2))) F64.one = true ∧ F64.lt (v (-1)) F64.zero = true ∧ F64.lt (.inf true) F64.zero = true := by
  decide +kernel

theorem witness_RegisterIndirection :
    wit.params.maxIndirection = 2 ∧ F64.truncInt (wit.x.get 0) = none ∧ F64.truncInt (wit.x.get 8) = none ∧
    F64.truncInt (wit.x.get 2) = some (-1) ∧ F64.truncInt (wit.x.get 4) = some 18 ∧
    F64.truncInt (wit.x.get 7) = some ((0 : Fin 18).val : Int) ∧ F64.truncInt (wit.x.get 3) = some ((17 : Fin 18).val : Int) := by
  decide +kernel

theorem witness_NameLookupOrder :
    lookupIn wit.aliases (bytes "a") = some (.reg (.gpr 1 0)) ∧
    (lookupIn wit.aliases (bytes "c") = none ∧ lookupIn wit.defines (bytes "c") = some (v 3)) ∧
    (lookupIn wit.aliases (bytes "l") = none ∧ lookupIn wit.defines (bytes "l") = none ∧
      lookupIn wit.labels (bytes "l") = some 2) ∧
    lookupIn wit.aliases (bytes "z") = none ∧ lookupIn wit.defines (bytes "z") = none ∧
      lookupIn wit.labels (bytes "z") = none := by
  decide +kernel

theorem witness_PinResolution :
    (wit.params.maxIndirection = 2 ∧ wit.cellOf (.gpr 4 1) = .error (.raised .invalidRegisterIndex)) ∧
    (wit.cellOf (.gpr 5 0) = .ok (.x 5) ∧ F64.truncInt (wit.x.get 0) = none ∧ F64.truncInt (wit.x.get 2) = some (-1) ∧
      F64.truncInt (wit.x.get 6) = some 6 ∧ F64.truncInt (wit.x.get 7) = some ((0 : Fin 6).val : Int) ∧
      F64.truncInt (wit.x.get 5) = some ((5 : Fin 6).val : Int)) ∧
    wit.binding (bytes "p") = .ok (.target (.pin (.direct (.d 0)))) ∧
    wit.binding (bytes "z") = .error (.raised .unresolvedName) :=
  ⟨⟨rfl, error_of (by decide +kernel)⟩, ⟨rfl, by decide +kernel⟩, ok_of (by decide +kernel), error_of (by decide +kernel)⟩

theorem witness_BatchModeNumbers :
    wit.value badVal = .error (.raised .invalidRegisterIndex) ∧ wit.value (.name (bytes "c")) = .ok (v 3) ∧
    (F64.truncInt (v 0) = some 0 ∧ F64.truncInt (v 1) = some 1 ∧ F64.truncInt (v 2) = some 2 ∧ F64.truncInt (v 3) = some 3) ∧
    F64.truncInt .nan = none ∧ F64.truncInt (v (-1)) = some (-1) ∧ F64.truncInt (v 4) = some 4 :=
  ⟨wit_badVal, ok_of (by decide +kernel), by decide +kernel⟩

theorem witness_StackAddressCheck :
    F64.truncInt (.inf true) = none ∧ F64.truncInt (v (-1)) = some (-1) ∧ F64.truncInt (v 512) = some 512 ∧
    F64.truncInt (v 0) = some 0 ∧ F64.truncInt (v 511) = some 511 := by
  decide +kernel

theorem witness_RegisterCellsAndNames :
    ({ wit with params := { params with spRaAliased := true } } : State).home .sp = .x 16 ∧
    wit.home .sp = .sp ∧ wit.home (.x 0) ≠ wit.home (.x 1) := by
  decide +kernel

/-- A register, a failing index, and a name of each category or none. -/
theorem witness_RegisterCellsAndNames_operands :
    (wit.params.spRaAliased = false ∧ ({ params with spRaAliased := true } : Params).spRaAliased = true) ∧
    (wit.cellOf (.gpr 17 0) = .ok (.x 17) ∧ wit.cellOf (.gpr 4 1) = .error (.raised .invalidRegisterIndex)) ∧
    (wit.binding (bytes "a") = .ok (.target (.reg (.gpr 1 0))) ∧
      wit.binding (bytes "p") = .ok (.target (.pin (.direct (.d 0))))) ∧
    (wit.binding (bytes "c") = .ok (.constant (v 3)) ∧ wit.binding (bytes "l") = .ok (.line 2) ∧
      wit.binding (bytes "z") = .error (.raised .unresolvedName)) ∧
    wit.value (.num F64.one) = .ok F64.one ∧ wit.value badVal = .error (.raised .invalidRegisterIndex) :=
  ⟨⟨rfl, rfl⟩, ⟨rfl, error_of (by decide +kernel)⟩, ⟨ok_of (by decide +kernel), ok_of (by decide +kernel)⟩,
    ⟨ok_of (by decide +kernel), ok_of (by decide +kernel), error_of (by decide +kernel)⟩, rfl, wit_badVal⟩

theorem witness_AggregationOfReads : F64.nan ∈ [F64.one, F64.nan] := by decide +kernel

theorem witness_UnaryInstructionsWriteResult : wit.dest (.name (bytes "a")) = .ok (.x 1) ∧ wit.value (.reg .sp) = .ok F64.zero :=
  ⟨ok_of (by decide +kernel), rfl⟩

theorem witness_BinaryInstructionsWriteResult :
    wit.dest (.reg .ra) = .ok .ra ∧ wit.value (.name (bytes "l")) = .ok (v 2) ∧ wit.value (.reg (.gpr 3 1)) = .ok (v 0) ∧
    wit.value (.num .nan) = .ok .nan :=
  ⟨rfl, ok_of (by decide +kernel), ok_of (by decide +kernel), rfl⟩

theorem witness_RandomDraw : ∃ u q, wit.dest (r 0) = .ok (.x 0) ∧ wit.port.nextDraw = (u, q) := ⟨_, _, rfl, rfl⟩

theorem witness_BitwiseInstructionsWriteResult :
    wit.dest (r 0) = .ok (.x 0) ∧ wit.value (.num (v 63)) = .ok (v 63) ∧
    (0 ≤ (toInt .i64 (v 0)).toInt ∧ (toInt .i64 (v 63)).toInt < bitWidth .i64) ∧
    (toInt .i64 (v (-1))).toInt < 0 ∧ (bitWidth .i64 : Int) ≤ (toInt .i64 (v 64)).toInt :=
  ⟨rfl, rfl, by decide +kernel⟩

theorem witness_CompareInstructionsWriteBoolean :
    wit.dest (r 0) = .ok (.x 0) ∧ wit.value (.reg (.gpr 0 0)) = .ok .nan ∧ wit.value (.reg (.gpr 8 0)) = .ok (.inf false) ∧
    wit.value (.num F64.zero) = .ok F64.zero :=
  ⟨rfl, rfl, rfl, rfl⟩

/-- The first failure of an instruction's operands in the witness state. -/
def firstOf (i : Instr) : Option (Exn × Port) := wit.firstFailure (i.slots.zip i.operands) wit.port

/-- A destination before a source, the last of three sources, a branch, a value after a pin, whose call is made, and a
name in a slot that does not accept it. -/
theorem witness_FirstOperandErrorDecides :
    firstOf (.move badReg (.name (bytes "z"))) = some (.raised .invalidRegisterIndex, wit.port) ∧
    firstOf (.select (r 0) (.num .nan) (.num .nan) (.name (bytes "z"))) = some (.raised .unresolvedName, wit.port) ∧
    firstOf (.beqz (.num .nan) badVal) = some (.raised .invalidRegisterIndex, wit.port) ∧
    firstOf (.get (r 0) (.pin (.direct .db)) badVal) =
      some (.raised .invalidRegisterIndex, wit.port.record (.resolvePin .db)) ∧
    firstOf (.push (.name (bytes "p"))) = some (.stopped .nameCategory, wit.port) := by
  decide +kernel

/-- The witness state with answers waiting: an id, a handle set, two reads and two writes. -/
def answered : State := { wit with port := { wit.port with
  idTape := [some 50]
  setTape := [[30, 31]]
  readTape := [.value (v 2), .value (v 4)]
  writeTape := [.done, .done] } }

/-- The witness state whose host knows no id and fails reads and writes. -/
def failing (f : DevFail) : State := { wit with port := { wit.port with
  idTape := [some 50]
  setTape := [[30, 31]]
  readTape := [.fails f]
  writeTape := [.fails f] } }

def d0 : PinOp := .pin (.direct (.d 0))
def d3 : PinOp := .pin (.direct (.d 3))
def on : Key := .named (bytes "On")

theorem witness_DeviceLoadsWriteAnswer :
    (answered.dest (r 0) = .ok (.x 0) ∧ answered.key (.key (bytes "On")) = .ok on ∧ answered.pin d0 = .ok (.d 0) ∧
      answered.value (.num F64.one) = .ok F64.one) ∧
    (∃ q q', answered.port.askPin (.d 0) = (some 10, q) ∧ q.askRead (.read 10 on) = (.value (v 2), q')) ∧
    (∃ q q', answered.port.askPin (.d 0) = (some 10, q) ∧ q.askRead (.readSlot 10 F64.one on) = (.value (v 2), q')) ∧
    (∃ q q', answered.port.askPin (.d 0) = (some 10, q) ∧ q.askRead (.readReagent 10 on F64.one) = (.value (v 2), q')) ∧
    (∃ q q', answered.port.askId F64.one = (some 50, q) ∧ q.askRead (.read 50 on) = (.value (v 2), q')) :=
  ⟨⟨rfl, rfl, rfl, rfl⟩, ⟨_, _, rfl, rfl⟩, ⟨_, _, rfl, rfl⟩, ⟨_, _, rfl, rfl⟩, ⟨_, _, rfl, rfl⟩⟩

theorem witness_DeviceStoresCallTheHost :
    (answered.port.readTape = [.value (v 2), .value (v 4)] ∧ answered.port.writeTape = [.done, .done] ∧
      answered.port.idTape = [some 50] ∧ answered.port.setTape = [[30, 31]] ∧ answered.port.pinTape = []) ∧
    ({ Port.powerOn with pinTape := [some 9] } : Port).pinTape = [some 9] ∧
    ({ Port.powerOn with drawTape := [⟨0, 0, false⟩] } : Port).drawTape = [⟨0, 0, false⟩] ∧
    (answered.key (.key (bytes "On")) = .ok on ∧ answered.value (.num F64.one) = .ok F64.one ∧
      answered.pin d0 = .ok (.d 0)) ∧
    (∃ q q', answered.port.askPin (.d 0) = (some 10, q) ∧ q.askWrite (.write 10 on F64.one) = (.done, q')) ∧
    (∃ q q', answered.port.askPin (.d 0) = (some 10, q) ∧ q.askWrite (.writeSlot 10 F64.one on F64.one) = (.done, q')) ∧
    (∃ q q', answered.port.askId F64.one = (some 50, q) ∧ q.askWrite (.write 50 on F64.one) = (.done, q')) :=
  ⟨⟨rfl, rfl, rfl, rfl, rfl⟩, rfl, rfl, ⟨rfl, rfl, rfl⟩, ⟨_, _, rfl, rfl⟩, ⟨_, _, rfl, rfl⟩, ⟨_, _, rfl, rfl⟩⟩

theorem witness_DeviceMemoryCallsTheHost :
    (answered.params.dbMemoryIsStack = false ∧ answered.port.pins.db ≠ some 10 ∧ answered.dest (r 0) = .ok (.x 0) ∧
      answered.value (.num F64.one) = .ok F64.one ∧ answered.pin d0 = .ok (.d 0)) ∧
    (∃ q q', answered.port.askPin (.d 0) = (some 10, q) ∧ q.askRead (.readMem 10 F64.one) = (.value (v 2), q')) ∧
    (∃ q q', answered.port.askPin (.d 0) = (some 10, q) ∧ q.askWrite (.writeMem 10 F64.one F64.one) = (.done, q')) ∧
    (∃ q q', answered.port.askId F64.one = (some 50, q) ∧ q.askRead (.readMem 50 F64.one) = (.value (v 2), q')) ∧
    (∃ q q', answered.port.askId F64.one = (some 50, q) ∧ q.askWrite (.writeMem 50 F64.one F64.one) = (.done, q')) :=
  ⟨⟨rfl, by decide, rfl, rfl, rfl⟩, ⟨_, _, rfl, rfl⟩, ⟨_, _, rfl, rfl⟩, ⟨_, _, rfl, rfl⟩, ⟨_, _, rfl, rfl⟩⟩

/-- The witness state whose housing memory is the stack, with the housing's handle as the answer to an id. -/
def housed : State := { wit with
  params := { params with dbMemoryIsStack := true }
  stack := [(511, v 7)]
  port := { wit.port with idTape := [some 20] } }

theorem witness_HousingMemoryIsTheStack :
    (housed.params.dbMemoryIsStack = true ∧ housed.port.pins.db = some 20 ∧ housed.stack.wf = true) ∧
    (housed.dest (r 0) = .ok (.x 0) ∧ housed.value (.num (v 511)) = .ok (v 511) ∧
      housed.pin (.pin (.direct .db)) = .ok .db) ∧
    (stackAddr (v 511) = .ok 511 ∧ stackAddr (v 0) = .ok 0) ∧ stackAddr (v 512) = .error (.raised .stackOverflow) ∧
    (∃ q, housed.port.askPin .db = (some 20, q)) ∧ ∃ q, housed.port.askId F64.one = (some 20, q) :=
  ⟨⟨rfl, rfl, by decide +kernel⟩, ⟨rfl, rfl, rfl⟩, ⟨ok_of (by decide +kernel), ok_of (by decide +kernel)⟩,
    error_of (by decide +kernel), ⟨_, rfl⟩, ⟨_, rfl⟩⟩

theorem witness_DeviceErrorsAreRaised :
    (wit.dest (r 0) = .ok (.x 0) ∧ wit.key (.key (bytes "On")) = .ok on ∧ wit.value (.num F64.one) = .ok F64.one ∧
      wit.pin d3 = .ok (.d 3)) ∧
    (∃ q, wit.port.askPin (.d 3) = (none, q)) ∧
    (∃ q, ({ wit.port with idTape := [none] } : Port).askId F64.one = (none, q)) ∧
    (∃ q q', (failing .permissionDenied).port.askPin (.d 0) = (some 10, q) ∧
      q.askRead (.read 10 on) = (.fails .permissionDenied, q')) ∧
    ((failing .invalidLogicType).params.dbMemoryIsStack = false ∧ housed.params.dbMemoryIsStack = true ∧
      housed.port.pins.db ≠ some 10) ∧
    (∃ q q', (failing .invalidLogicType).port.askPin (.d 0) = (some 10, q) ∧
      q.askRead (.readMem 10 F64.one) = (.fails .invalidLogicType, q')) ∧
    (∃ q q', (failing .invalidLogicType).port.askId F64.one = (some 50, q) ∧
      q.askWrite (.writeMem 50 F64.one F64.one) = (.fails .invalidLogicType, q')) :=
  ⟨⟨rfl, rfl, rfl, rfl⟩, ⟨_, rfl⟩, ⟨_, rfl⟩, ⟨_, _, rfl, rfl⟩, ⟨rfl, rfl, by decide⟩, ⟨_, _, rfl, rfl⟩, ⟨_, _, rfl, rfl⟩⟩

theorem witness_BatchLoadsAggregate :
    (answered.dest (r 0) = .ok (.x 0) ∧ answered.key (.key (bytes "On")) = .ok on ∧
      answered.mode (.mode .sum) = .ok .sum ∧ answered.value (.num F64.one) = .ok F64.one) ∧
    (∃ q q', answered.port.askSet F64.one none = ([30, 31], q) ∧ q.reads (.read · on) [30, 31] = .ok ([v 2, v 4], q')) ∧
    (∃ q q', answered.port.askSet F64.one (some F64.one) = ([30, 31], q) ∧
      q.reads (.readSlot · F64.one on) [30, 31] = .ok ([v 2, v 4], q')) ∧
    (∃ q q', (failing .permissionDenied).port.askSet F64.one none = ([30, 31], q) ∧
      q.reads (.read · on) [30, 31] = .error (.permissionDenied, q')) ∧
    (∃ q q', (failing .permissionDenied).port.askSet F64.one (some F64.one) = ([30, 31], q) ∧
      q.reads (.readSlot · F64.one on) [30, 31] = .error (.permissionDenied, q')) :=
  ⟨⟨rfl, rfl, rfl, rfl⟩, ⟨_, _, rfl, rfl⟩, ⟨_, _, rfl, rfl⟩, ⟨_, _, rfl, rfl⟩, ⟨_, _, rfl, rfl⟩⟩

theorem witness_BatchStoresWriteEveryMatch :
    (answered.key (.key (bytes "On")) = .ok on ∧ answered.value (.num F64.one) = .ok F64.one) ∧
    (∃ q q', answered.port.askSet F64.one none = ([30, 31], q) ∧ q.writes (.write · on F64.one) [30, 31] = .ok q') ∧
    (∃ q q', answered.port.askSet F64.one none = ([30, 31], q) ∧
      q.writes (.writeSlot · F64.one on F64.one) [30, 31] = .ok q') ∧
    (∃ q q', answered.port.askSet F64.one (some F64.one) = ([30, 31], q) ∧
      q.writes (.write · on F64.one) [30, 31] = .ok q') ∧
    (∃ q q', (failing .permissionDenied).port.askSet F64.one none = ([30, 31], q) ∧
      q.writes (.write · on F64.one) [30, 31] = .error (.permissionDenied, q')) :=
  ⟨⟨rfl, rfl⟩, ⟨_, _, rfl, rfl⟩, ⟨_, _, rfl, rfl⟩, ⟨_, _, rfl, rfl⟩, ⟨_, _, rfl, rfl⟩⟩

theorem witness_PushWritesCellThenMoves :
    (wit.stack.wf = true ∧ wit.value (.num F64.one) = .ok F64.one ∧ stackAddr (v 0) = .ok 0 ∧ stackAddr (v 511) = .ok 511) ∧
    wit.value badVal = .error (.raised .invalidRegisterIndex) ∧ stackAddr (v 512) = .error (.raised .stackOverflow) ∧
    stackAddr (v (-1)) = .error (.raised .stackUnderflow) :=
  ⟨⟨rfl, rfl, ok_of (by decide +kernel), ok_of (by decide +kernel)⟩, wit_badVal, error_of (by decide +kernel),
    error_of (by decide +kernel)⟩

theorem witness_PopReadsCellAfterMove :
    (wit.dest (r 0) = .ok (.x 0) ∧ stackAddr (F64.sub (v 1) F64.one) = .ok 0 ∧ stackAddr (F64.sub (v 512) F64.one) = .ok 511 ∧
      wit.home .sp ≠ wit.home (.x 0)) ∧
    wit.dest badReg = .error (.raised .invalidRegisterIndex) ∧
    stackAddr (F64.sub (v 0) F64.one) = .error (.raised .stackUnderflow) ∧
    stackAddr (F64.sub (v 513) F64.one) = .error (.raised .stackOverflow) :=
  ⟨⟨rfl, ok_of (by decide +kernel), ok_of (by decide +kernel), by decide +kernel⟩, wit_badReg,
    error_of (by decide +kernel), error_of (by decide +kernel)⟩

theorem witness_PeekAndPokeLeaveSp :
    (wit.dest (r 0) = .ok (.x 0) ∧ stackAddr (F64.sub (v 1) F64.one) = .ok 0 ∧ wit.stack.wf = true ∧
      wit.value (.num (v 511)) = .ok (v 511) ∧ stackAddr (v 511) = .ok 511) ∧
    wit.dest badReg = .error (.raised .invalidRegisterIndex) ∧ wit.value badVal = .error (.raised .invalidRegisterIndex) ∧
    stackAddr (F64.sub (v 0) F64.one) = .error (.raised .stackUnderflow) ∧
    stackAddr (v 512) = .error (.raised .stackOverflow) :=
  ⟨⟨rfl, ok_of (by decide +kernel), rfl, rfl, ok_of (by decide +kernel)⟩, wit_badReg, wit_badVal,
    error_of (by decide +kernel), error_of (by decide +kernel)⟩

/-- A full stack, and the last of its pops. -/
theorem witness_LastInFirstOut :
    wit.stack.wf = true ∧ wit.readCell .sp = F64.zero ∧ (List.replicate 512 F64.one).length ≤ 512 ∧
    (List.replicate 512 F64.one).reverse[511]? = some F64.one ∧ (List.replicate 512 F64.one).reverse[0]? = some F64.one :=
  ⟨rfl, rfl, by decide +kernel, by decide +kernel, by decide +kernel⟩

theorem witness_AbsoluteJumpsTaken :
    (wit.value (.num F64.one) = .ok F64.one ∧ wit.value (.reg (.gpr 9 0)) = .ok (v 9) ∧ wit.target (v 9) = .ok 9 ∧
      wit.target (v 0) = .ok 0) ∧ F64.eq F64.one F64.one = true :=
  ⟨⟨rfl, ok_of (by decide +kernel), ok_of (by decide +kernel), ok_of (by decide +kernel)⟩, by decide +kernel⟩

theorem witness_LinkingJumpsTaken :
    (wit.value (.num F64.one) = .ok F64.one ∧ wit.value (.reg (.gpr 9 0)) = .ok (v 9) ∧ wit.target (v 9) = .ok 9) ∧
    F64.ge F64.one F64.one = true :=
  ⟨⟨rfl, ok_of (by decide +kernel), ok_of (by decide +kernel)⟩, by decide +kernel⟩

theorem witness_RelativeJumpsTaken :
    (({ wit with pc := 4 } : State).value (.num (v (-4))) = .ok (v (-4)) ∧
      ({ wit with pc := 4 } : State).target (F64.add (F64.ofNat 4) (v (-4))) = .ok 0 ∧
      ({ wit with pc := 4 } : State).target (F64.add (F64.ofNat 4) (v 5)) = .ok 9) ∧ F64.isNaN .nan = true :=
  ⟨⟨rfl, ok_of (by decide +kernel), ok_of (by decide +kernel)⟩, rfl⟩

theorem witness_BranchesNotTakenDoNothing :
    wit.value (.num F64.one) = .ok F64.one ∧ wit.value (.num (v 99)) = .ok (v 99) ∧ F64.lt F64.one F64.one = false ∧
    F64.eq .nan .nan = false :=
  ⟨rfl, rfl, by decide +kernel⟩

theorem witness_PinTestsUseOneAnswer :
    (∃ q, wit.pin d0 = .ok (.d 0) ∧ wit.port.askPin (.d 0) = (some 10, q)) ∧
    (∃ q, wit.pin d3 = .ok (.d 3) ∧ wit.port.askPin (.d 3) = (none, q)) ∧
    wit.dest (r 0) = .ok (.x 0) ∧ wit.value (.num (v 9)) = .ok (v 9) ∧ wit.target (v 9) = .ok 9 ∧
    wit.target (F64.add (F64.ofNat wit.pc) (v 9)) = .ok 9 :=
  ⟨⟨_, rfl, rfl⟩, ⟨_, rfl, rfl⟩, rfl, rfl, ok_of (by decide +kernel), ok_of (by decide +kernel)⟩

theorem witness_JumpTargetsAreChecked :
    (wit.program = some (List.replicate 10 ⟨.nop, 0, []⟩) ∧ State.reset.program = none) ∧
    (F64.truncInt .nan = none ∧ F64.truncInt (v (-1)) = some (-1) ∧ F64.truncInt (v 10) = some (wit.len : Int) ∧
      F64.truncInt (v 9) = some 9) ∧
    wit.value (.num (v 10)) = .ok (v 10) ∧ wit.target (v 10) = .error (.raised .invalidProgramCounter) ∧
    wit.target (F64.add (F64.ofNat wit.pc) (v (-1))) = .error (.raised .invalidProgramCounter) ∧
    (F64.eq F64.one F64.one = true ∧ F64.ge F64.one F64.zero = true ∧
      approx wit.params.approxEps F64.one F64.one F64.zero = true ∧ approxZero wit.params.approxEps F64.one F64.zero = false) ∧
    (∃ q, wit.pin d0 = .ok (.d 0) ∧ wit.port.askPin (.d 0) = (some 10, q)) ∧
    ∃ q, wit.pin d3 = .ok (.d 3) ∧ wit.port.askPin (.d 3) = (none, q) :=
  ⟨⟨rfl, rfl⟩, by decide +kernel, rfl, error_of (by decide +kernel), error_of (by decide +kernel), by decide +kernel,
    ⟨_, rfl, rfl⟩, ⟨_, rfl, rfl⟩⟩

theorem witness_SystemInstructions :
    wit.value (.num .nan) = .ok .nan ∧ wit.value badVal = .error (.raised .invalidRegisterIndex) := ⟨rfl, wit_badVal⟩

/-- The source, the program and the state of a loaded program. -/
def source : List Byte := lines ["yield", "hcf"]
def program : List Record := [⟨.yield, 0, []⟩, ⟨.hcf, 1, []⟩]
def loaded : State := { demo with program := some program }

theorem witness_StepRunsTheDecodedLine :
    (parseProgram loaded.params source = .ok (program, []) ∧ loaded.program = some program ∧
      (Lexer.splitLines source)[loaded.pc]? = some (bytes "yield") ∧ decode keys (bytes "yield") = .ok .yield ∧
      loaded.inTick = true ∧ loaded.ic ≠ loaded.params.tickBudget) ∧
    ∃ t, exec .yield { loaded with npc := none, ic := 1 } = .next t :=
  ⟨⟨ok_of (by decide +kernel), rfl, by decide +kernel, ok_of (by decide +kernel), rfl, by decide⟩, ⟨_, rfl⟩⟩

theorem witness_StepFetchesExecutesSequences :
    (loaded.program = some program ∧ loaded.inTick = true ∧ loaded.ic ≠ loaded.params.tickBudget ∧
      loaded.crashed = false) ∧
    (∃ t, exec .yield { loaded with npc := none, ic := 1 } = .next t ∧ t.crashed = false ∧ t.status ≠ .ready) ∧
    (∃ t, exec .hcf { loaded with npc := none, ic := 1 } = .next t ∧ t.crashed = true) ∧
    (∃ t, exec .nop { loaded with npc := none, ic := 1 } = .next t ∧ t.crashed = false ∧ t.status = .ready) ∧
    program.length ≤ ({ loaded with pc := 2 } : State).pc :=
  ⟨⟨rfl, rfl, by decide, rfl⟩, ⟨_, rfl, rfl, by decide⟩, ⟨_, rfl, rfl⟩, ⟨_, rfl, rfl, rfl⟩, by decide⟩

theorem witness_TickBeginsAndStops :
    ((asleep [.runTick (v 11)]).inTick = false ∧ (asleep [.runTick (v 11)]).commands = .runTick (v 11) :: [] ∧
      (asleep []).status = .sleeping (v 12) ∧ F64.lt (v 11) (v 12) = true ∧ F64.ge (v 12) (v 12) = true) ∧
    ({ demo with ic := 32 } : State).inTick = true ∧ ({ demo with ic := 32 } : State).ic = demo.params.tickBudget :=
  ⟨⟨rfl, rfl, rfl, by decide +kernel⟩, rfl, rfl⟩

theorem demo_inv : demo.Inv where
  status := ⟨by simp [demo, State.reset], by simp [demo, State.reset], by simp [demo], by simp [demo], by simp [demo]⟩
  coded := fun r h => by simp [demo, State.reset] at h
  stack := rfl
  aliases := List.nodup_nil
  defines := List.nodup_nil
  budget := by decide

theorem demo_namesOk : demo.namesOk := by
  intro p hp
  obtain rfl : List.replicate 10 ⟨.nop, 0, []⟩ = p := Option.some.inj hp
  refine ⟨fun r hr slot n hn => ?_, fun n t h => ?_, fun n w h => ?_⟩
  · obtain ⟨-, rfl⟩ := List.mem_replicate.1 hr
    simp [Instr.operands] at hn
  · cases h
  · cases h

theorem witness_TickEndsWithinBudget : demo.Inv ∧ demo.namesOk ∧ demo.inTick = true := ⟨demo_inv, demo_namesOk, rfl⟩

theorem witness_ResetClearsTheCore :
    (asleep [.reset]).inTick = false ∧ (asleep [.reset]).commands = .reset :: [] ∧ (asleep [.reset]).program ≠ none :=
  ⟨rfl, rfl, by decide⟩

/-- A crashed core between ticks. -/
def crashed (commands : List Command) : State := { demo with
  status := .crashed
  crashed := true
  inTick := false
  commands := commands }

theorem witness_CrashedCoreStaysCrashed :
    ((crashed []).status = .crashed ∧ (crashed []).inTick = false ∧
      (crashed [.runTick (v 1)]).commands = .runTick (v 1) :: []) ∧
    ∃ t, Sys2Proof.Machine.step (crashed [.reset]) = .next t ∧ t.status ≠ .crashed :=
  ⟨⟨rfl, rfl, rfl⟩, ⟨_, rfl, by decide⟩⟩

theorem witness_SnapshotRestoresTheCore :
    demo.program = some (List.replicate 10 ⟨.nop, 0, []⟩) ∧
    ({ demo with pc := 3, status := .yielded } : State).program = some (List.replicate 10 ⟨.nop, 0, []⟩) ∧
    demo.Inv ∧ demo.namesOk :=
  ⟨rfl, rfl, demo_inv, demo_namesOk⟩

theorem witness_InstructionsWriteNothingElse : ∃ t, exec (.move (r 0) (.num F64.one)) demo = .next t := ⟨_, rfl⟩

theorem witness_ProgramIsWrittenOnlyByLoad :
    (∃ t, Sys2Proof.Machine.step loaded = .next t ∧ t.program = loaded.program) ∧
    ∃ t, Sys2Proof.Machine.step (asleep [.load []]) = .next t ∧ t.program ≠ (asleep []).program :=
  ⟨⟨_, rfl, rfl⟩, ⟨_, rfl, by decide +kernel⟩⟩

theorem witness_FatalEntryWritesNothingElse :
    loaded.crashed = false ∧ (∃ t, exec .hcf loaded = .next t ∧ t.crashed = true) ∧
    (∃ t, exec .nop loaded = .next t ∧ t.crashed = false) ∧
    (∃ u : State, ∃ rec : Record, rec.instr = .hcf ∧ u.fetch = some rec ∧ u.inTick = true ∧
      u.ic ≠ u.params.tickBudget ∧
      Raises (exec .hcf { u with npc := none, ic := u.ic + 1 }) { u with npc := none, ic := u.ic + 1 } .halt u.port) :=
  ⟨rfl, ⟨_, rfl, rfl⟩, ⟨_, rfl, rfl⟩, ⟨{ loaded with pc := 1 }, ⟨.hcf, 1, []⟩, rfl, rfl, rfl, by decide, rfl⟩⟩

theorem witness_LoadedNamesNeverStopTheMachine : demo.namesOk ∧ ∃ t, Sys2Proof.Machine.step demo = .next t :=
  ⟨demo_namesOk, ⟨_, rfl⟩⟩

theorem witness_InvariantIsKept : demo.Inv ∧ ∃ t, Sys2Proof.Machine.step demo = .next t := ⟨demo_inv, ⟨_, rfl⟩⟩

end Sys2Proof.Tests
end

section
/-! PROOFS. Rounding to nearest, ties to even, and the operations that round once (O7).

The data are seen on a grid: near `t * 2^j` units, with `t` of 53 bits (or `j = 0`), the finite data are the
multiples of `2^j` units. `RoundsOnGrid` says what `roundUnits` computes on that grid; that the result is nearest,
and where it overflows, follows from it. -/

namespace Sys2Proof.F64

/-! ### The magnitude of a datum -/

theorem sig_lt (e : Fin 2047) (f : BitVec 52) : sig e f < 2 ^ 53 := by
  unfold sig
  split <;> omega

theorem units_eq (e : Fin 2047) (f : BitVec 52) :
    units e f = if e.val = 0 then f.toNat else (2 ^ 52 + f.toNat) * 2 ^ (e.val - 1) := by
  unfold units sig scale
  split
  next he => simp [he]
  next => rfl

theorem unitsPerOne_eq : unitsPerOne = 2 ^ 1074 := by unfold unitsPerOne; rfl

/-- No datum lies strictly between neighbouring multiples of `2^j` units with a 53-bit factor. -/
theorem units_le_or_ge (e : Fin 2047) (f : BitVec 52) {j t : Nat} (hnormal : j = 0 ∨ 2 ^ 52 ≤ t) :
    units e f ≤ t * 2 ^ j ∨ (t + 1) * 2 ^ j ≤ units e f := by
  unfold units
  rcases Nat.lt_or_ge (scale e) j with hcoarse | hfine
  · -- the datum is below `2^53 * 2^(j-1)`, the least normal number on the grid
    left
    calc sig e f * 2 ^ scale e
      _ ≤ 2 ^ 53 * 2 ^ (j - 1) := Nat.mul_le_mul (Nat.le_of_lt (sig_lt e f)) (Nat.pow_le_pow_right Nat.two_pos (by omega))
      _ = 2 ^ 52 * 2 ^ j := by rw [← Nat.pow_add, ← Nat.pow_add]; congr 1; omega
      _ ≤ t * 2 ^ j := Nat.mul_le_mul_right _ (by omega)
  · -- the datum is itself a multiple of `2^j`
    obtain ⟨k, hk⟩ := Nat.exists_eq_add_of_le' hfine
    rw [hk, Nat.pow_add, ← Nat.mul_assoc]
    rcases Nat.lt_or_ge t (sig e f * 2 ^ k) with hlt | hle
    · exact .inr (Nat.mul_le_mul_right _ hlt)
    · exact .inl (Nat.mul_le_mul_right _ hle)

/-! ### The datum of an exponent-and-fraction code -/

theorem ofMagnitude_eq_inf (neg : Bool) {m : Nat} (h : 2047 * 2 ^ 52 ≤ m) : ofMagnitude neg m = .inf neg := if_pos h

theorem ofMagnitude_ne_nan (neg : Bool) (m : Nat) : ofMagnitude neg m ≠ .nan := by
  unfold ofMagnitude
  split <;> simp

/-- The code `j * 2^52 + c` is the datum of `c * 2^j` units, the carry `c = 2^53` to the next exponent included; the
fraction has the parity of `c`. -/
theorem ofMagnitude_eq_fin (neg : Bool) {j c : Nat} (hnormal : j = 0 ∨ 2 ^ 52 ≤ c) (hc : c ≤ 2 ^ 53)
    (hm : j * 2 ^ 52 + c < 2047 * 2 ^ 52) :
    ∃ e f, ofMagnitude neg (j * 2 ^ 52 + c) = .fin neg e f ∧ units e f = c * 2 ^ j ∧ f.toNat % 2 = c % 2 := by
  refine ⟨_, _, if_neg (Nat.not_le.2 hm), ?_, by rw [BitVec.toNat_ofNat]; omega⟩
  rw [units_eq, BitVec.toNat_ofNat, Fin.val_ofNat, Nat.mod_eq_of_lt (a := _ / _) (by omega)]
  rcases Nat.lt_or_ge c (2 ^ 52) with hsub | hge
  · obtain rfl : j = 0 := by omega
    rw [if_pos (by omega)]
    omega
  · rw [if_neg (by omega)]
    rcases Nat.lt_or_ge c (2 ^ 53) with hlt | hcarry
    · rw [show (j * 2 ^ 52 + c) / 2 ^ 52 - 1 = j by omega,
        show 2 ^ 52 + (j * 2 ^ 52 + c) % 2 ^ 52 = c by omega]
    · obtain rfl : c = 2 ^ 53 := by omega
      rw [show (j * 2 ^ 52 + 2 ^ 53) / 2 ^ 52 - 1 = j + 1 by omega,
        show 2 ^ 52 + (j * 2 ^ 52 + 2 ^ 53) % 2 ^ 52 = 2 ^ 52 by omega]
      omega

/-! ### What `roundUnits` computes on the grid -/

/-- Twice the point in the middle between `t` and `t + 1` multiples of `u`. -/
theorem midpoint_mul (t u : Nat) : (2 * t + 1) * u = 2 * (t * u) + u := by
  rw [Nat.add_one_mul, Nat.mul_assoc]

theorem mul_mul_into_right (k p d : Nat) : k * p * d = k * (d * p) := by rw [Nat.mul_assoc, Nat.mul_comm d]

theorem mul_two_pow_le (d : Nat) {i j : Nat} (h : i ≤ j) : d * 2 ^ i ≤ d * 2 ^ j :=
  Nat.mul_le_mul_left d (Nat.pow_le_pow_right Nat.two_pos h)

/-- `n / d` lies between `t` and `t + 1` multiples of `2^j` units, neighbouring data, and `c` is the nearer of the two
factors, the even one in the middle. -/
structure RoundsOnGrid (n d j t c : Nat) : Prop where
  normal : j = 0 ∨ 2 ^ 52 ≤ t
  lt : t < 2 ^ 53
  lower : t * (d * 2 ^ j) ≤ n
  upper : n < (t + 1) * (d * 2 ^ j)
  near : c = t ∧ 2 * n ≤ (2 * t + 1) * (d * 2 ^ j) ∨ c = t + 1 ∧ (2 * t + 1) * (d * 2 ^ j) ≤ 2 * n
  tie : 2 * n = (2 * t + 1) * (d * 2 ^ j) → c % 2 = 0

/-- The exponent chosen by `roundUnits` leaves a quotient of at most 53 bits, and of exactly 53 where the exponent is
not 0. -/
theorem log2_sub_bounds (q : Nat) :
    (q.log2 - 52 = 0 ∨ 2 ^ 52 ≤ q / 2 ^ (q.log2 - 52)) ∧ q / 2 ^ (q.log2 - 52) < 2 ^ 53 := by
  constructor
  · rcases Nat.le_total q.log2 52 with hle | hge
    · exact .inl (by omega)
    · have hq : q ≠ 0 := by rintro rfl; simp at hge
      rw [Nat.le_div_iff_mul_le (Nat.two_pow_pos _), ← Nat.pow_add, Nat.add_sub_cancel' hge]
      exact .inr (Nat.log2_self_le hq)
  · rw [Nat.div_lt_iff_lt_mul (Nat.two_pow_pos _), ← Nat.pow_add]
    exact Nat.lt_of_lt_of_le Nat.lt_log2_self (Nat.pow_le_pow_right Nat.two_pos (by omega))

theorem roundUnits_eq_ofMagnitude (neg : Bool) (n : Nat) {d : Nat} (hd : 0 < d) :
    ∃ j t c, RoundsOnGrid n d j t c ∧ roundUnits neg n d = ofMagnitude neg (j * 2 ^ 52 + c) := by
  let j := (n / d).log2 - 52
  let ulp := d * 2 ^ j
  let t := n / ulp
  let r := n % ulp
  obtain ⟨hnormal, hlt⟩ := log2_sub_bounds (n / d)
  rw [Nat.div_div_eq_div_mul] at hnormal hlt
  have hn : t * ulp + r = n := Nat.div_add_mod' n ulp
  have hr : r < ulp := Nat.mod_lt n (Nat.mul_pos hd (Nat.two_pow_pos j))
  have hnext : (t + 1) * ulp = t * ulp + ulp := Nat.add_one_mul t ulp
  have hmid : (2 * t + 1) * ulp = 2 * (t * ulp) + ulp := midpoint_mul t ulp
  refine ⟨j, t, t + if ulp < 2 * r then 1 else if 2 * r = ulp then t % 2 else 0,
    ⟨hnormal, hlt, Nat.le.intro hn, ?upper, ?near, ?tie⟩, rfl⟩
  case upper =>
    change n < (t + 1) * ulp
    omega
  case near =>
    rw [hmid]
    split
    next => omega
    next => split <;> omega
  case tie =>
    rw [hmid]
    intro h
    rw [if_neg (by omega), if_pos (by omega)]
    omega

/-! ### Nearest, ties to even -/

/-- The distance between `x` units and `n / d` units, in parts of `1 / d` unit. -/
abbrev distance (n d x : Nat) : Nat := ((x * d : Nat) - n : Int).natAbs

/-- The chosen multiple is at least as near as any number outside the open interval between the neighbours, and where
another is equally near it is the even one. -/
theorem RoundsOnGrid.distance_le {n d j t c x : Nat} (h : RoundsOnGrid n d j t c) (hd : 0 < d)
    (hx : x ≤ t * 2 ^ j ∨ (t + 1) * 2 ^ j ≤ x) :
    distance n d (c * 2 ^ j) ≤ distance n d x ∧
      (distance n d (c * 2 ^ j) = distance n d x → x ≠ c * 2 ^ j → c % 2 = 0) := by
  obtain ⟨-, -, hlower, hupper, hnear, htie⟩ := h
  have hnext : (t + 1) * (d * 2 ^ j) = t * (d * 2 ^ j) + d * 2 ^ j := Nat.add_one_mul _ _
  have hmid : (2 * t + 1) * (d * 2 ^ j) = 2 * (t * (d * 2 ^ j)) + d * 2 ^ j := midpoint_mul _ _
  have hxd : x * d ≤ t * (d * 2 ^ j) ∨ (t + 1) * (d * 2 ^ j) ≤ x * d := by
    rw [← mul_mul_into_right, ← mul_mul_into_right]
    exact hx.imp (Nat.mul_le_mul_right d) (Nat.mul_le_mul_right d)
  have hne : x ≠ c * 2 ^ j → x * d ≠ c * (d * 2 ^ j) := fun hxc => by
    rw [← mul_mul_into_right]
    exact fun heq => hxc (Nat.eq_of_mul_eq_mul_right hd heq)
  unfold distance
  rw [mul_mul_into_right]
  rw [hnext] at hupper hxd
  rw [hmid] at hnear htie
  rcases hnear with ⟨rfl, hnear⟩ | ⟨rfl, hnear⟩
  · refine ⟨by omega, fun heq hxc => htie ?_⟩
    have := hne hxc
    omega
  · rw [hnext] at hne ⊢
    refine ⟨by omega, fun heq hxc => htie ?_⟩
    have := hne hxc
    omega

theorem roundUnits_nearest {neg s : Bool} {n d : Nat} {e : Fin 2047} {f : BitVec 52} (hd : 0 < d)
    (h : roundUnits neg n d = .fin s e f) :
    s = neg ∧ ∀ (g : Fin 2047) (k : BitVec 52),
      distance n d (units e f) ≤ distance n d (units g k) ∧
      (distance n d (units e f) = distance n d (units g k) → units g k ≠ units e f → f.toNat % 2 = 0) := by
  obtain ⟨j, t, c, hgrid, hround⟩ := roundUnits_eq_ofMagnitude neg n hd
  rw [hround] at h
  rcases Nat.lt_or_ge (j * 2 ^ 52 + c) (2047 * 2 ^ 52) with hfin | hinf
  · obtain ⟨e', f', heq, hunits, hparity⟩ := ofMagnitude_eq_fin neg (j := j) (c := c)
      (by have := hgrid.normal; have := hgrid.near; omega) (by have := hgrid.lt; have := hgrid.near; omega) hfin
    rw [heq] at h
    cases h
    rw [hunits, hparity]
    exact ⟨rfl, fun g k => hgrid.distance_le hd (units_le_or_ge g k hgrid.normal)⟩
  · rw [ofMagnitude_eq_inf neg hinf] at h
    cases h

/-! ### Overflow -/

/-- The code reaches the infinities exactly from `(2^53 - 1/2) * 2^2045` units on, half a unit in the last place above
the largest finite datum. -/
theorem RoundsOnGrid.overflow_iff {n d j t c : Nat} (h : RoundsOnGrid n d j t c) :
    2047 * 2 ^ 52 ≤ j * 2 ^ 52 + c ↔ (2 ^ 54 - 1) * 2 ^ 2044 * d ≤ n := by
  obtain ⟨hnormal, hlt, hlower, hupper, hnear, htie⟩ := h
  have hpow : ∀ m k, d * 2 ^ (m + k) = 2 ^ k * (d * 2 ^ m) := fun m k => by
    rw [Nat.pow_add, ← Nat.mul_assoc, Nat.mul_comm]
  rw [mul_mul_into_right]
  rcases Nat.lt_trichotomy j (2044 + 1) with hj | rfl | hj
  · have hulp : d * 2 ^ j ≤ d * 2 ^ 2044 := mul_two_pow_le d (by omega)
    have hn : n < 2 ^ 53 * (d * 2 ^ 2044) := Nat.lt_of_lt_of_le hupper (Nat.mul_le_mul (by omega) hulp)
    generalize d * 2 ^ 2044 = u at hn
    omega
  · rw [hpow 2044 1] at hupper hnear htie
    generalize d * 2 ^ 2044 = u at hupper hnear htie
    rcases Nat.lt_or_ge (t + 1) (2 ^ 53) with ht | ht
    · -- below the largest factor nothing reaches the threshold
      have hn : n < (2 ^ 53 - 1) * (2 ^ 1 * u) := Nat.lt_of_lt_of_le hupper (Nat.mul_le_mul_right _ (by omega))
      omega
    · -- the largest factor is odd, so its upper neighbour takes the tie
      obtain rfl : t = 2 ^ 53 - 1 := by omega
      omega
  · have hulp : d * 2 ^ (2044 + 2) ≤ d * 2 ^ j := mul_two_pow_le d (by omega)
    have hn : 2 ^ 52 * (d * 2 ^ (2044 + 2)) ≤ n := Nat.le_trans (Nat.mul_le_mul (by omega) hulp) hlower
    rw [hpow 2044 2] at hn
    generalize d * 2 ^ 2044 = u at hn
    omega

theorem roundUnits_ne_nan (neg : Bool) (n d : Nat) : roundUnits neg n d ≠ .nan := ofMagnitude_ne_nan _ _

theorem roundUnits_eq_inf_iff {neg s : Bool} {n d : Nat} (hd : 0 < d) :
    roundUnits neg n d = .inf s ↔ s = neg ∧ (2 ^ 54 - 1) * 2 ^ 2044 * d ≤ n := by
  obtain ⟨j, t, c, hgrid, hround⟩ := roundUnits_eq_ofMagnitude neg n hd
  rw [hround, ← hgrid.overflow_iff]
  unfold ofMagnitude
  split
  next hover => simp only [F64.inf.injEq, eq_comm, hover, and_true]
  next hfin => exact iff_of_false (by simp) fun h => hfin h.2

theorem roundUnits_zero (neg : Bool) {d : Nat} (hd : 0 < d) : roundUnits neg 0 d = zeroOf neg := by
  simp [roundUnits, ofMagnitude, zeroOf, Nat.ne_of_lt hd]

/-! ### The operations -/

theorem add_fin (s t : Bool) (e g : Fin 2047) (f h : BitVec 52) :
    add (.fin s e f) (.fin t g h) =
      if signedUnits s e f + signedUnits t g h = 0 then zeroOf (s && t)
      else roundUnits (decide (signedUnits s e f + signedUnits t g h < 0))
        (signedUnits s e f + signedUnits t g h).natAbs 1 := rfl

theorem div_fin (s t : Bool) (e g : Fin 2047) (f h : BitVec 52) :
    div (.fin s e f) (.fin t g h) =
      if units g h = 0 then if units e f = 0 then .nan else .inf (s ^^ t)
      else roundUnits (s ^^ t) (units e f * unitsPerOne) (units g h) := rfl

theorem mul_inf_fin (s t : Bool) (e : Fin 2047) (f : BitVec 52) :
    mul (.inf s) (.fin t e f) = if units e f = 0 then .nan else .inf (s ^^ t) := rfl

theorem mul_fin_inf (s t : Bool) (e : Fin 2047) (f : BitVec 52) :
    mul (.fin s e f) (.inf t) = if units e f = 0 then .nan else .inf (s ^^ t) := rfl

@[simp] theorem add_nan (a : F64) : add a .nan = .nan := by cases a <;> rfl

@[simp] theorem mul_nan (a : F64) : mul a .nan = .nan := by cases a <;> rfl

@[simp] theorem div_nan (a : F64) : div a .nan = .nan := by cases a <;> rfl

/-- Settles O7: `roundUnits` computes on the grid of `RoundsOnGrid`, whose neighbours no datum separates; the operations
are their equations. -/
theorem roundingIsToNearestEven : Obligations.RoundingIsToNearestEven := by
  unfold Obligations.RoundingIsToNearestEven
  refine ⟨fun s e f => ⟨units_eq e f, rfl, rfl, rfl, rfl⟩, fun _ => rfl, rfl, rfl, fun neg n d hd => ?rounding,
    unitsPerOne_eq, fun s t e g f h => ?finite, fun s t e f => ?infinite,
    fun a => ⟨rfl, add_nan a, rfl, mul_nan a, rfl, div_nan a⟩,
    fun a s e f => ⟨rfl, rfl, add_nan a, rfl, rfl, rfl, rfl⟩⟩
  case rounding =>
    refine ⟨roundUnits_ne_nan neg n d, fun s e f => roundUnits_nearest hd,
      fun s h => ((roundUnits_eq_inf_iff hd).1 h).1, ?_, roundUnits_zero neg hd⟩
    simp only [roundUnits_eq_inf_iff hd, exists_eq_left]
  case finite =>
    refine ⟨fun hsum => ?_, fun hsum => ?_, rfl, fun hg => ?_, fun hg he => ?_, fun hg he => ?_⟩
    · rw [add_fin, if_pos hsum]
    · rw [add_fin, if_neg hsum]
    · rw [div_fin, if_neg hg]
    · rw [div_fin, if_pos hg, if_neg he]
    · rw [div_fin, if_pos hg, if_pos he]
  case infinite =>
    refine ⟨rfl, rfl, rfl, rfl, fun he => ⟨?_, ?_⟩, fun he => ⟨?_, ?_⟩, rfl, rfl, rfl⟩
    · rw [mul_inf_fin, if_pos he]
    · rw [mul_fin_inf, if_pos he]
    · rw [mul_inf_fin, if_neg he]
    · rw [mul_fin_inf, if_neg he]

end Sys2Proof.F64
end

section
/-! PROOFS. The step and the machine's invariant: what an instruction may not write (O55), what one
step can answer, and the invariant that every step keeps (O60). -/

namespace Sys2Proof.Machine

/-! ### What an instruction may not write -/

theorem Undisturbed.refl (s : State) : Undisturbed s s :=
  ⟨rfl, rfl, rfl, rfl, rfl, rfl, rfl, rfl, rfl, Port.Grows.refl _⟩

theorem Undisturbed.trans {s t u : State} (h : Undisturbed s t) (k : Undisturbed t u) : Undisturbed s u where
  params := k.params.trans h.params
  pc := k.pc.trans h.pc
  labels := k.labels.trans h.labels
  program := k.program.trans h.program
  ic := k.ic.trans h.ic
  now := k.now.trans h.now
  loadError := k.loadError.trans h.loadError
  inTick := k.inTick.trans h.inTick
  commands := k.commands.trans h.commands
  port := h.port.trans k.port

theorem undisturbed_writeCell (s : State) (c : Cell) (v : F64) : Undisturbed s (s.writeCell c v) := by
  constructor
  case port => simpa using Port.Grows.refl s.port
  all_goals simp

theorem undisturbed_port (s : State) (q : Port) (h : Port.Grows s.port q) : Undisturbed s { s with port := q } :=
  { Undisturbed.refl s with port := h }

theorem undisturbed_fatal (s : State) (e : RunError) : Undisturbed s (s.fatal e) :=
  { Undisturbed.refl s with }

/-- No elementary change writes what an instruction may not write. -/
theorem elementary_undisturbed : Elementary Undisturbed where
  refl := Undisturbed.refl
  trans _ _ _ := Undisturbed.trans
  cell := undisturbed_writeCell
  npc s _ := { Undisturbed.refl s with }
  stack s _ _ _ := { Undisturbed.refl s with }
  clear s := { Undisturbed.refl s with }
  port := undisturbed_port

theorem exec_undisturbed {i : Instr} {s u : State} (h : exec i s = .next u) : Undisturbed s u := by
  have hcases := exec_cases elementary_undisturbed i s u
    (fun _ => { Undisturbed.refl s with }) (fun _ _ _ => { Undisturbed.refl s with })
    (fun _ _ _ => { Undisturbed.refl s with }) (fun _ _ _ => { Undisturbed.refl s with }) h
  rcases hcases with completed | ⟨e, t, made, rfl⟩
  · exact completed
  · exact (undisturbed_port s t.port made.port).trans (undisturbed_fatal _ e)

theorem exec_ne_refused (i : Instr) (s : State) (r : Refusal) : exec i s ≠ .refused r := by
  obtain ⟨m, hm⟩ := exec_perform i
  rw [hm s]
  exact perform_not_refused (m s) s r

/-- Settles O55: the changes an instruction is made of write none of it, and neither does the fatal entry. -/
theorem instructionsWriteNothingElse : Obligations.InstructionsWriteNothingElse := by
  unfold Obligations.InstructionsWriteNothingElse
  exact fun i s => ⟨exec_ne_refused i s, fun _ => exec_undisturbed⟩

/-! ### What one step answers -/

section

variable {s t : State} {r : Record}

theorem State.fetch_of_program {records : List Record} (h : s.program = some records) : s.fetch = records[s.pc]? := by
  simp only [State.fetch, h]

theorem step_of_budget_spent (tick : s.inTick = true) (spent : s.ic = s.params.tickBudget) :
    Sys2Proof.Machine.step s = .next s.softStop := by
  simp only [step, State.advance, tick, spent, if_true]

theorem step_of_tick (tick : s.inTick = true) (budget : s.ic ≠ s.params.tickBudget) :
    Sys2Proof.Machine.step s = s.instruction := by
  simp only [step, State.advance, tick, budget, if_true, if_false]

theorem step_of_no_command (tick : s.inTick = false) (noCommand : s.commands = []) :
    Sys2Proof.Machine.step s = .next s := by
  simp [step, State.advance, tick, noCommand]

theorem step_of_command {c : Command} {rest : List Command} (tick : s.inTick = false) (next : s.commands = c :: rest) :
    Sys2Proof.Machine.step s = .next ({ s with commands := rest }.command c) := by
  simp [step, State.advance, tick, next]

theorem instruction_of_no_line (h : s.fetch = none) : s.instruction = .next s.fetchOutside := by
  simp only [State.instruction, h]

theorem instruction_of_next (hr : s.fetch = some r) (h : exec r.instr s.begin = .next t) :
    s.instruction = .next t.sequence := by
  simp only [State.instruction, hr, h]

theorem instruction_of_fault {f : Fault} (hr : s.fetch = some r) (h : exec r.instr s.begin = .fault f) :
    s.instruction = .fault f := by
  simp only [State.instruction, hr, h]

/-- The ways a step comes to a next state. -/
inductive StepsTo (s : State) : State → Prop
  | softStop (tick : s.inTick = true) (spent : s.ic = s.params.tickBudget) : StepsTo s s.softStop
  | outside (tick : s.inTick = true) (budget : s.ic ≠ s.params.tickBudget) (noLine : s.fetch = none) :
      StepsTo s s.fetchOutside
  | line (tick : s.inTick = true) (budget : s.ic ≠ s.params.tickBudget) (r : Record) (t : State)
      (fetched : s.fetch = some r) (executed : exec r.instr s.begin = .next t) : StepsTo s t.sequence
  | idle (tick : s.inTick = false) (noCommand : s.commands = []) : StepsTo s s
  | command (tick : s.inTick = false) (c : Command) (rest : List Command) (next : s.commands = c :: rest) :
      StepsTo s ({ s with commands := rest }.command c)

/-- A step answers a next state in one of these ways and in no other. -/
theorem stepsTo_of_step (h : Sys2Proof.Machine.step s = .next t) : StepsTo s t := by
  cases tick : s.inTick with
  | true =>
    by_cases spent : s.ic = s.params.tickBudget
    · obtain rfl := Host.Outcome.next.inj ((step_of_budget_spent tick spent).symm.trans h)
      exact .softStop tick spent
    · rw [step_of_tick tick spent] at h
      cases fetched : s.fetch with
      | none =>
        obtain rfl := Host.Outcome.next.inj ((instruction_of_no_line fetched).symm.trans h)
        exact .outside tick spent fetched
      | some r =>
        cases executed : exec r.instr s.begin with
        | next u =>
          obtain rfl := Host.Outcome.next.inj ((instruction_of_next fetched executed).symm.trans h)
          exact .line tick spent r u fetched executed
        | fault f => cases (instruction_of_fault fetched executed).symm.trans h
        | refused x => exact absurd executed (exec_ne_refused _ _ x)
  | false =>
    cases next : s.commands with
    | nil =>
      obtain rfl := Host.Outcome.next.inj ((step_of_no_command tick next).symm.trans h)
      exact .idle tick next
    | cons c rest =>
      obtain rfl := Host.Outcome.next.inj ((step_of_command tick next).symm.trans h)
      exact .command tick c rest next

end

/-! ### The invariant between and within ticks -/

/-- The clauses of the invariant that speak of no tick: what every elementary change of an instruction keeps. -/
structure State.Consistent (s : State) : Prop where
  crashed : s.crashed = true ↔ s.status = .crashed
  resume : ∀ t, s.resume = some t ↔ s.status = .sleeping t
  error : s.status = .crashed → s.error.isSome
  program : s.status = .noProgram ↔ s.program = none
  coded : s.errorCoded
  stack : s.stack.wf = true
  aliases : isMap s.aliases
  defines : isMap s.defines

theorem State.inv_iff (s : State) :
    s.Inv ↔ s.Consistent ∧ (s.inTick = true → s.status = .ready) ∧ s.ic ≤ s.params.tickBudget := by
  constructor
  · rintro ⟨⟨crashed, resume, error, program, tick⟩, coded, stack, aliases, defines, budget⟩
    exact ⟨⟨crashed, resume, error, program, coded, stack, aliases, defines⟩, tick, budget⟩
  · rintro ⟨⟨crashed, resume, error, program, coded, stack, aliases, defines⟩, tick, budget⟩
    exact ⟨⟨crashed, resume, error, program, tick⟩, coded, stack, aliases, defines, budget⟩

namespace State.Consistent

variable {s : State}

theorem awake (h : s.Consistent) (ready : s.status = .ready) : s.resume = none ∧ s.crashed = false := by
  refine ⟨Option.eq_none_iff_forall_ne_some.2 fun t ht => ?_, Bool.eq_false_iff.2 fun hc => ?_⟩
  · exact nomatch ready.symm.trans ((h.resume t).1 ht)
  · exact nomatch ready.symm.trans (h.crashed.1 hc)

/-- A core with a program that has not crashed, put to run, wait or sleep, with the resume time of that status. -/
theorem withStatus (h : s.Consistent) (hprogram : s.status ≠ .noProgram) (hlive : s.status ≠ .crashed) {st : Status}
    {res : Option F64} (installed : st ≠ .noProgram) (live : st ≠ .crashed)
    (hres : ∀ t, res = some t ↔ st = .sleeping t) : ({ s with status := st, resume := res } : State).Consistent :=
  { h with
    crashed := iff_of_false (fun hc => hlive (h.crashed.1 hc)) live
    resume := hres
    error := fun hst => absurd hst live
    program := iff_of_false installed fun hp => hprogram (h.program.2 hp) }

theorem begin (h : s.Consistent) : s.begin.Consistent := { h with }

theorem leaveTick (h : s.Consistent) : s.leaveTick.Consistent := { h with }

theorem sequence (h : s.Consistent) : s.sequence.Consistent := by
  by_cases hc : s.crashed = true
  · rw [State.sequence_of_crashed s hc]
    exact h.leaveTick
  · rw [Bool.not_eq_true] at hc
    by_cases hr : s.status = .ready
    · rw [State.sequence_of_ready s hc hr]
      exact { h with }
    · rw [State.sequence_of_suspended s hc hr]
      exact { h with }

theorem writeCell (h : s.Consistent) (c : Cell) (v : F64) : (s.writeCell c v).Consistent := by
  unfold State.writeCell
  split <;> exact { h with }

theorem fatal (h : s.Consistent) (hprogram : s.status ≠ .noProgram) (e : RunError) : (s.fatal e).Consistent :=
  { h with
    crashed := iff_of_true rfl rfl
    resume := fun t => by simp
    error := fun _ => rfl
    program := iff_of_false (by simp) fun hp => hprogram (h.program.2 hp)
    coded := fun r hr => by obtain rfl := Option.some.inj hr; rfl }

theorem yielded (h : s.Consistent) (ready : s.status = .ready) :
    ({ s with status := .yielded } : State).Consistent :=
  h.withStatus (by simp [ready]) (by simp [ready]) (by simp) (by simp) fun t => by simp [(h.awake ready).1]

theorem sleepFor (h : s.Consistent) (ready : s.status = .ready) (d : F64) : (s.sleepFor d).Consistent :=
  h.withStatus (by simp [ready]) (by simp [ready]) (by simp) (by simp) fun t => by simp

theorem startTick (h : s.Consistent) (hprogram : s.status ≠ .noProgram) (hlive : s.status ≠ .crashed) (now : F64) :
    (s.startTick now).Consistent :=
  { h.withStatus hprogram hlive (st := .ready) (res := none) (by simp) (by simp) fun t => by simp with }

end State.Consistent

/-- No elementary change of an instruction breaks the consistency of the state. -/
theorem elementary_consistent : Elementary fun s t => s.Consistent → t.Consistent where
  refl _ h := h
  trans _ _ _ hst htu h := htu (hst h)
  cell _ c v h := h.writeCell c v
  npc _ _ h := { h with }
  stack _ a v ha h := { h with stack := Memory.write_wf _ a v ha h.stack }
  clear _ h := { h with stack := Memory.nil_wf }
  port _ _ _ h := { h with }

/-- An instruction of a running core leaves the state consistent, whether it completes or raises an error. -/
theorem exec_consistent {i : Instr} {s u : State} (h : s.Consistent) (ready : s.status = .ready)
    (hu : exec i s = .next u) : u.Consistent := by
  have hcases := exec_cases elementary_consistent i s u
    (fun _ h => h.yielded ready) (fun _ d _ h => h.sleepFor ready d)
    (fun n t _ h => { h with aliases := isMap_bindIn s.aliases n t h.aliases })
    (fun n v _ h => { h with defines := isMap_bindIn s.defines n v h.defines }) hu
  rcases hcases with completed | ⟨e, t, -, rfl⟩
  · exact completed h
  · exact State.Consistent.fatal (s := { s with port := t.port }) { h with } (by simp [ready]) e

/-! ### The host's commands keep the invariant -/

namespace State.Inv

variable {s : State}

theorem consistent (h : s.Inv) : s.Consistent := (s.inv_iff.1 h).1

/-- A tick under way runs with status Ready. -/
theorem ready (h : s.Inv) (tick : s.inTick = true) : s.status = .ready := by
  obtain ⟨-, ready, -⟩ := s.inv_iff.1 h
  exact ready tick

/-- Between ticks the invariant asks nothing of the status but that it agrees with the other fields. -/
theorem of_no_tick (h : s.Consistent) (tick : s.inTick = false) (budget : s.ic ≤ s.params.tickBudget) : s.Inv :=
  s.inv_iff.2 ⟨h, fun ht => absurd (ht.symm.trans tick) (by decide), budget⟩

theorem startTick (h : s.Inv) (hprogram : s.status ≠ .noProgram) (hlive : s.status ≠ .crashed) (now : F64) :
    (s.startTick now).Inv :=
  (State.inv_iff _).2 ⟨h.consistent.startTick hprogram hlive now, fun _ => rfl, Nat.zero_le _⟩

theorem runTick (h : s.Inv) (now : F64) : (s.runTick now).Inv := by
  unfold State.runTick
  cases hst : s.status with
  | noProgram => exact h
  | crashed => exact h
  | ready => exact h.startTick (by simp [hst]) (by simp [hst]) now
  | yielded => exact h.startTick (by simp [hst]) (by simp [hst]) now
  | sleeping t =>
    dsimp only
    split
    · exact h.startTick (by simp [hst]) (by simp [hst]) now
    · exact h

/-- `reset()` leads to a state with the invariant, whatever was before. -/
theorem restart (s : State) : s.restart.Inv := by
  refine of_no_tick ?_ rfl (Nat.zero_le _)
  constructor
  case crashed | resume | error | program => cases installed : s.program <;> simp [installed]
  case coded => exact fun r hr => nomatch hr
  case stack => exact State.restart_stack_wf s
  case aliases => exact List.nodup_nil
  case defines => exact List.nodup_nil

theorem load (h : s.Inv) (tick : s.inTick = false) (source : List Byte) : (s.load source).Inv := by
  unfold State.load
  split
  · refine of_no_tick ?_ tick h.budget
    exact { h.consistent with
      crashed := by simp
      resume := by simp
      error := by simp
      program := by simp }
  · exact restart _

theorem restore (h : s.Inv) (tick : s.inTick = false) (snap : Snapshot) : (s.restore snap).Inv := by
  unfold State.restore
  split
  · exact h
  · next program installed =>
    split
    · refine of_no_tick ?_ tick (Nat.zero_le _)
      constructor
      case crashed | resume | error | program => simp [installed]
      case coded => exact fun r hr => nomatch hr
      case stack => exact Memory.writeCells_wf snap.stack [] Memory.nil_wf
      case aliases => exact isMap_bindAll snap.aliases [] List.nodup_nil
      case defines => exact isMap_bindAll snap.defines [] List.nodup_nil
    · exact h

theorem housingWrite (h : s.Inv) (addr v : F64) : (s.housingWrite addr v).Inv := by
  unfold State.housingWrite
  split
  · split
    · next a ha => exact { h with stack := Memory.write_wf s.stack a v (stackAddr_lt addr a ha) h.stack }
    · exact h
  · exact h

theorem housingClear (h : s.Inv) : s.housingClear.Inv := by
  unfold State.housingClear
  split
  · exact { h with stack := Memory.nil_wf }
  · exact h

theorem command (h : s.Inv) (tick : s.inTick = false) (c : Command) : (s.command c).Inv := by
  cases c with
  | runTick now => exact h.runTick now
  | reset => exact restart s
  | load source => exact h.load tick source
  | bind pin handle => exact { h with }
  | restore snap => exact h.restore tick snap
  | housingWrite addr v => exact h.housingWrite addr v
  | housingClear => exact h.housingClear

/-! ### The steps of a tick keep the invariant -/

theorem softStop (h : s.Inv) (tick : s.inTick = true) : s.softStop.Inv :=
  of_no_tick (h.consistent.yielded (h.ready tick)).leaveTick rfl h.budget

/-- Within a tick and its budget, one more step may be counted. -/
theorem ic_lt (h : s.Inv) (budget : s.ic ≠ s.params.tickBudget) : s.ic + 1 ≤ s.params.tickBudget :=
  Nat.lt_of_le_of_ne h.budget budget

theorem fetchOutside (h : s.Inv) (tick : s.inTick = true) (budget : s.ic ≠ s.params.tickBudget) :
    s.fetchOutside.Inv := by
  have ready := h.ready tick
  have hb := h.consistent.begin
  unfold State.fetchOutside
  split
  · exact of_no_tick (hb.fatal (by simp [ready]) _).leaveTick rfl (h.ic_lt budget)
  · refine of_no_tick (State.Consistent.leaveTick ?_) rfl (h.ic_lt budget)
    exact hb.withStatus (by simp [ready]) (by simp [ready]) (by simp) (by simp) fun t => by
      simp [(h.consistent.awake ready).1]

/-- The tick goes on only with status Ready (R1200 (5)). -/
theorem sequence (h : s.Consistent) (budget : s.ic ≤ s.params.tickBudget) : s.sequence.Inv := by
  refine (State.inv_iff _).2 ⟨h.sequence, fun tick => ?_, by simpa using budget⟩
  by_cases hc : s.crashed = true
  · simp [State.sequence_of_crashed s hc] at tick
  · by_contra hr
    rw [State.sequence_of_suspended s (by simpa using hc) (by simpa using hr)] at tick
    cases tick

end State.Inv

theorem StepsTo.inv {s t : State} (h : s.Inv) (hst : StepsTo s t) : t.Inv := by
  cases hst with
  | softStop tick => exact h.softStop tick
  | outside tick budget => exact h.fetchOutside tick budget
  | line tick budget r u fetched executed =>
    have kept := exec_undisturbed executed
    refine State.Inv.sequence (exec_consistent h.consistent.begin (h.ready tick) executed) ?_
    rw [kept.ic, kept.params]
    exact h.ic_lt budget
  | idle => exact h
  | command tick c rest => exact State.Inv.command (s := { s with commands := rest }) { h with } tick c

/-- Settles O60, by the ways a step can answer: within a tick an instruction leaves the state consistent and the sequencer
ends the tick unless the status is Ready; between ticks each command of the host keeps the invariant. -/
theorem invariantIsKept : Obligations.InvariantIsKept := by
  unfold Obligations.InvariantIsKept
  exact fun s t h hst => (stepsTo_of_step hst).inv h

end Sys2Proof.Machine
end

section
/-! PROOFS. One step within a tick (10_state.md R150, R151): fetch, execute, sequence (O48), and the decoded line it runs
(O47). -/

namespace Sys2Proof.Machine

/-! ### Fetch, execute, sequence -/

section

variable {s t : State} {r : Record}

theorem State.fetchOutside_of_fault (h : s.params.endOfProgram = .fault) :
    s.fetchOutside = (s.begin.fatal .invalidProgramCounter).leaveTick := by
  simp only [State.fetchOutside, h]

theorem State.fetchOutside_of_ends (h : s.params.endOfProgram = .ends) :
    s.fetchOutside = ({ s.begin with status := .ready } : State).leaveTick := by
  simp only [State.fetchOutside, h]

variable (tick : s.inTick = true) (budget : s.ic ≠ s.params.tickBudget)

include tick budget

theorem step_of_no_line (h : s.fetch = none) : Sys2Proof.Machine.step s = .next s.fetchOutside :=
  (step_of_tick tick budget).trans (instruction_of_no_line h)

theorem step_of_next (hr : s.fetch = some r) (h : exec r.instr s.begin = .next t) :
    Sys2Proof.Machine.step s = .next t.sequence :=
  (step_of_tick tick budget).trans (instruction_of_next hr h)

theorem step_of_fault {f : Fault} (hr : s.fetch = some r) (h : exec r.instr s.begin = .fault f) :
    Sys2Proof.Machine.step s = .fault f :=
  (step_of_tick tick budget).trans (instruction_of_fault hr h)

end

/-- Settles O48: the instruction leaves the program counter alone, and the sequencer's three branches are the three cases
of its outcome. -/
theorem stepFetchesExecutesSequences : Obligations.StepFetchesExecutesSequences := by
  unfold Obligations.StepFetchesExecutesSequences
  intro s records installed tick budget _
  refine ⟨fun r t hr executed => ?inside, fun outside => ?outside⟩
  case inside =>
    have hstep := step_of_next tick budget ((State.fetch_of_program installed).trans hr) executed
    have hpc : t.pc = s.pc := (exec_undisturbed executed).pc
    rw [hstep, ← hpc]
    refine ⟨fun hc => ?_, fun hc ready => ?_, fun hc suspended => ?_⟩
    · rw [State.sequence_of_crashed t hc]
      rfl
    · rw [State.sequence_of_ready t hc ready]
    · rw [State.sequence_of_suspended t hc suspended]
  case outside =>
    have noLine : s.fetch = none := (State.fetch_of_program installed).trans (List.getElem?_eq_none outside)
    rw [step_of_no_line tick budget noLine]
    refine ⟨fun hfault => ⟨none, ?_⟩, fun hends => ⟨none, ?_⟩⟩
    · rw [State.fetchOutside_of_fault hfault]
      rfl
    · rw [State.fetchOutside_of_ends hends]
      rfl

/-! ### What a line means does not depend on which names the program binds

A load knows the category of every name; decoding one line by itself takes every name as bound. The load refuses more
lines, and what it accepts it reads alike. -/

section

open Decoder

variable {keys : KeyNames} {cats : Option (List (Ident × Category))}

theorem checkName_eq_name {ctx : Ctx} {accepted : List Category} {n : Ident} {o : Operand}
    (h : checkName ctx accepted n = .ok o) : o = .name n := by
  unfold checkName at h
  split at h
  · exact (Except.ok.inj h).symm
  · split at h
    · cases h
    · split at h
      · exact (Except.ok.inj h).symm
      · cases h

theorem checkName_all_bound {accepted : List Category} {n : Ident} {o : Operand}
    (h : checkName ⟨keys, cats⟩ accepted n = .ok o) : checkName ⟨keys, none⟩ accepted n = .ok o :=
  congrArg Except.ok (checkName_eq_name h).symm

theorem valOperand_all_bound {t : Lexer.Token} {o : Operand} (h : valOperand ⟨keys, cats⟩ t = .ok o) :
    valOperand ⟨keys, none⟩ t = .ok o := by
  cases t with
  | ident n => exact checkName_all_bound h
  | reg | num | const | pin | malformed => exact h

theorem keyOperand_all_bound {names : List Ident} {t : Lexer.Token} {o : Operand}
    (h : keyOperand ⟨keys, cats⟩ names t = .ok o) : keyOperand ⟨keys, none⟩ names t = .ok o := by
  cases t with
  | ident n =>
    simp only [keyOperand] at h ⊢
    split at h
    · next isKey => rw [if_pos isKey]; exact h
    · next noKey => rw [if_neg noKey]; exact valOperand_all_bound h
  | reg | num | const | pin | malformed => exact h

theorem modeOperand_all_bound {t : Lexer.Token} {o : Operand} (h : modeOperand ⟨keys, cats⟩ t = .ok o) :
    modeOperand ⟨keys, none⟩ t = .ok o := by
  cases t with
  | ident n =>
    cases hm : batchModeNamed n with
    | some m => simpa only [modeOperand, hm] using h
    | none =>
      simp only [modeOperand, hm] at h ⊢
      exact valOperand_all_bound h
  | reg | num | const | pin | malformed => exact h

theorem slotOperand_all_bound {slot : Slot} {t : Lexer.Token} {o : Operand}
    (h : slotOperand ⟨keys, cats⟩ slot t = .ok o) : slotOperand ⟨keys, none⟩ slot t = .ok o := by
  cases slot with
  | val => exact valOperand_all_bound h
  | lt | slt | rm => exact keyOperand_all_bound h
  | bm => exact modeOperand_all_bound h
  | reg | pin =>
    cases t with
    | ident n => exact checkName_all_bound h
    | reg | num | const | pin | malformed => exact h
  | newName | target | num => exact h

theorem slotOperands_all_bound {slots : List Slot} {tokens : List (Nat × List Byte)} {os : List Operand}
    (h : slotOperands ⟨keys, cats⟩ slots tokens = .ok os) : slotOperands ⟨keys, none⟩ slots tokens = .ok os := by
  induction slots generalizing tokens os with
  | nil => exact h
  | cons slot slots ih =>
    cases tokens with
    | nil => exact h
    | cons token rest =>
      obtain ⟨col, t⟩ := token
      simp only [slotOperands] at h ⊢
      split at h
      · cases h
      · next o ho =>
        rw [slotOperand_all_bound ho]
        split at h
        · cases h
        · next os' hos =>
          rw [ih hos]
          exact h

theorem decodeTokens_all_bound {tokens : List (Nat × List Byte)} {line : Line}
    (h : decodeTokens ⟨keys, cats⟩ tokens = .ok line) : decodeTokens ⟨keys, none⟩ tokens = .ok line := by
  cases tokens with
  | nil => exact h
  | cons token rest =>
    obtain ⟨col, t⟩ := token
    cases hlabel : labelName t with
    | some name => simpa only [decodeTokens, hlabel] using h
    | none =>
      cases hrow : rowOf t with
      | none => simp [decodeTokens, hlabel, hrow] at h
      | some row =>
        by_cases arity : rest.length = row.slots.length
        · simp only [decodeTokens, hlabel, hrow, if_pos arity] at h ⊢
          split at h
          · cases h
          · next os hos =>
            rw [slotOperands_all_bound hos]
            exact h
        · simp [decodeTokens, hlabel, hrow, arity] at h

end

/-! ### The records of a load are its lines, decoded -/

section

open Decoder Lexer

theorem recordOf_instr (i : Nat) (line : Line) : (recordOf i line).instr = line.instr := by
  cases line <;> rfl

theorem decodeTokens_of_loadLine {ctx : Ctx} {earlier : List (Ident × Category)} {tokens : List (Nat × List Byte)}
    {line : Line} (h : loadLine ctx earlier tokens = .ok line) : decodeTokens ctx tokens = .ok line := by
  unfold loadLine at h
  cases hd : decodeTokens ctx tokens with
  | ok decoded =>
    simp only [hd] at h
    split at h
    · cases h
    · exact h
  | error e =>
    simp only [hd] at h
    split at h <;> cases h

/-- A load that accepts its first line and the lines after it. -/
theorem loadLines_cons_ok {ctx : Ctx} {i : Nat} {earlier : List (Ident × Category)} {tokens : List (Nat × List Byte)}
    {rest : List (List (Nat × List Byte))} {records : List Record} {labels : LabelTable}
    (h : loadLines ctx i earlier (tokens :: rest) = .ok (records, labels)) :
    ∃ line later labels', decodeTokens ctx tokens = .ok line ∧
      loadLines ctx (i + 1) (earlier ++ categories [tokens]) rest = .ok (later, labels') ∧
      records = recordOf i line :: later := by
  simp only [loadLines] at h
  split at h
  · cases h
  · next line hline =>
    split at h
    · cases h
    · next later labels' hlater =>
      refine ⟨line, later, labels', decodeTokens_of_loadLine hline, hlater, ?_⟩
      split at h <;> cases h <;> rfl

theorem loadLines_getElem? {ctx : Ctx} {i : Nat} {earlier : List (Ident × Category)}
    {lines : List (List (Nat × List Byte))} {records : List Record} {labels : LabelTable}
    (h : loadLines ctx i earlier lines = .ok (records, labels)) {k : Nat} {tokens : List (Nat × List Byte)}
    (hk : lines[k]? = some tokens) :
    ∃ line r, decodeTokens ctx tokens = .ok line ∧ records[k]? = some r ∧ r.instr = line.instr := by
  induction lines generalizing i earlier records labels k with
  | nil => cases hk
  | cons first rest ih =>
    obtain ⟨line, later, labels', hfirst, hlater, rfl⟩ := loadLines_cons_ok h
    cases k with
    | zero =>
      obtain rfl := Option.some.inj hk
      exact ⟨line, recordOf i line, hfirst, rfl, recordOf_instr i line⟩
    | succ k => exact ih hlater hk

/-- An accepted program is within `MAX_LINES`, and its records are those of all its lines. -/
theorem loadLines_of_parseProgram {p : Params} {source : List Byte} {prog : List Record × LabelTable}
    (h : parseProgram p source = .ok prog) :
    ∃ cats, loadLines ⟨p.keyNames, cats⟩ 0 [] ((splitLines source).map tokenize) = .ok prog := by
  refine ⟨some (categories ((splitLines source).map tokenize)), ?_⟩
  simp only [parseProgram] at h
  split at h
  · exact h
  · next limit hlimit =>
    split at h
    · cases h
    · next prog' hload =>
      split at h
      · cases h
      · next within =>
        rw [List.take_of_length_le (Nat.le_of_not_lt within)] at hload
        exact hload.trans h

/-- The record at a line of an accepted program holds the instruction the line decodes to by itself. -/
theorem record_of_decode {p : Params} {source : List Byte} {records : List Record} {labels : LabelTable}
    (h : parseProgram p source = .ok (records, labels)) {k : Nat} {line : List Byte} {i : Instr}
    (hline : (splitLines source)[k]? = some line) (hi : decode p.keyNames line = .ok i) :
    ∃ r, records[k]? = some r ∧ r.instr = i := by
  obtain ⟨cats, hload⟩ := loadLines_of_parseProgram h
  have htokens : ((splitLines source).map tokenize)[k]? = some (tokenize line) := by
    rw [List.getElem?_map, hline, Option.map_some]
  obtain ⟨decoded, r, hd, hr, hinstr⟩ := loadLines_getElem? hload htokens
  refine ⟨r, hr, hinstr.trans ?_⟩
  rw [decode, decodeLine, decodeTokens_all_bound hd] at hi
  exact Except.ok.inj hi

end

/-- Settles O47: the record at the program counter holds the instruction the line decodes to, and a step runs it. -/
theorem stepRunsTheDecodedLine : Obligations.StepRunsTheDecodedLine := by
  unfold Obligations.StepRunsTheDecodedLine
  intro s source records labels line i parsed installed hline decoded tick budget
  obtain ⟨r, hr, rfl⟩ := record_of_decode parsed hline decoded
  have fetched := (State.fetch_of_program installed).trans hr
  exact ⟨fun t => step_of_next tick budget fetched, fun f => step_of_fault tick budget fetched,
    fun x refused => absurd refused (exec_ne_refused _ _ x)⟩

end Sys2Proof.Machine
end

section
/-! PROOFS. Truncation to an index (O14), and register cells and names (O20). -/

namespace Sys2Proof.Machine

/-! ### Truncation -/

theorem truncInt_eq_none (v : F64) : F64.truncInt v = none ↔ v = .nan ∨ ∃ s, v = .inf s := by
  cases v <;> simp [F64.truncInt]

theorem truncInt_fin (s : Bool) (e : Fin 2047) (f : BitVec 52) :
    F64.truncInt (.fin s e f) =
      some (if s then -((F64.units e f / 2 ^ 1074 : Nat) : Int) else ((F64.units e f / 2 ^ 1074 : Nat) : Int)) := by
  rw [← F64.unitsPerOne_eq]
  rfl

/-- Settles O14: `toIdx` answers what `truncInt` does. -/
theorem indexTruncation : Obligations.IndexTruncation := by
  unfold Obligations.IndexTruncation
  exact ⟨truncInt_eq_none, truncInt_fin, fun err => ⟨rfl, fun _ => rfl, fun s e f =>
    (toIdx_eq_ok _ err _).2 (truncInt_fin s e f)⟩⟩

/-! ### Cells -/

namespace State

variable (s : State)

theorem home_sp_eq_x (i : Fin 18) : s.home .sp = s.home (.x i) ↔ s.params.spRaAliased = true ∧ i = 16 := by
  cases h : s.params.spRaAliased <;> simp [home, h, eq_comm]

theorem home_ra_eq_x (i : Fin 18) : s.home .ra = s.home (.x i) ↔ s.params.spRaAliased = true ∧ i = 17 := by
  cases h : s.params.spRaAliased <;> simp [home, h, eq_comm]

theorem home_sp_ne_ra : s.home .sp ≠ s.home .ra := by
  cases h : s.params.spRaAliased <;> simp [home, h]

theorem readCell_own (h : s.params.spRaAliased = false) : s.readCell .sp = s.sp ∧ s.readCell .ra = s.ra := by
  simp [readCell, home, h]

theorem readCell_shared (h : s.params.spRaAliased = true) :
    s.readCell .sp = s.x.get 16 ∧ s.readCell .ra = s.x.get 17 := by
  simp [readCell, home, h]

/-! ### Operands -/

variable {s}

theorem value_reg_ok {r : Reg} {c : Cell} (h : s.cellOf r = .ok c) : s.value (.reg r) = .ok (s.readCell c) := by
  simp only [State.value, regValue, h]

theorem value_reg_error {r : Reg} {e : Exn} (h : s.cellOf r = .error e) : s.value (.reg r) = .error e := by
  simp only [State.value, regValue, h]

variable {n : Ident}

theorem value_and_dest_of_register {r : Reg} (h : s.binding n = .ok (.target (.reg r))) :
    s.value (.name n) = s.value (.reg r) ∧ s.dest (.name n) = s.dest (.reg r) := by
  simp only [State.value, State.dest, h, and_self]

theorem value_and_dest_of_pin {p : PinRef} (h : s.binding n = .ok (.target (.pin p))) :
    s.value (.name n) = .error (.stopped .nameCategory) ∧ s.dest (.name n) = .error (.stopped .nameCategory) := by
  simp only [State.value, State.dest, h, and_self]

theorem value_and_dest_of_constant {v : F64} (h : s.binding n = .ok (.constant v)) :
    s.value (.name n) = .ok v ∧ s.dest (.name n) = .error (.stopped .nameCategory) := by
  simp only [State.value, State.dest, h, and_self]

theorem value_and_dest_of_line {l : Nat} (h : s.binding n = .ok (.line l)) :
    s.value (.name n) = .ok (F64.ofNat l) ∧ s.dest (.name n) = .error (.stopped .nameCategory) := by
  simp only [State.value, State.dest, h, and_self]

theorem value_and_dest_of_unbound {e : Exn} (h : s.binding n = .error e) :
    s.value (.name n) = .error e ∧ s.dest (.name n) = .error e := by
  simp only [State.value, State.dest, h, and_self]

theorem key_val_ok {o : ValOp} {v : F64} (h : s.value o = .ok v) : s.key (.val o) = .ok (.numeric v) := by
  simp only [State.key, h]

theorem key_val_error {o : ValOp} {e : Exn} (h : s.value o = .error e) : s.key (.val o) = .error e := by
  simp only [State.key, h]

end State

/-- Settles O20: cells are compared by their homes, and a name is resolved by what it is bound to. -/
theorem registerCellsAndNames : Obligations.RegisterCellsAndNames := by
  unfold Obligations.RegisterCellsAndNames
  refine ⟨fun s => ?operands, fun s v => ?cells⟩
  case operands =>
    exact ⟨fun _ => rfl, s.readCell_own, s.readCell_shared, rfl, rfl,
      fun _ _ h => ⟨State.value_reg_ok h, h⟩, fun _ _ h => ⟨State.value_reg_error h, h⟩, fun _ => rfl,
      fun _ _ => State.value_and_dest_of_register, fun _ _ => State.value_and_dest_of_constant,
      fun _ _ => State.value_and_dest_of_line, fun _ _ => State.value_and_dest_of_pin,
      fun _ _ => State.value_and_dest_of_unbound, fun _ => rfl, fun _ _ => State.key_val_ok,
      fun _ _ => State.key_val_error⟩
  case cells =>
    exact ⟨fun c d => s.readCell_writeCell_same c d v, fun c d => s.readCell_writeCell_other c d v,
      fun _ _ => by simp only [State.home, Cell.x.injEq], s.home_sp_eq_x, s.home_ra_eq_x, s.home_sp_ne_ra⟩

end Sys2Proof.Machine
end


section
/-! PROOFS. The program store and its writers (O56), and the stack address check (O19). -/

namespace Sys2Proof.Machine

/-! ### The program store and the label table -/

/-- `t` holds the program (10_state.md R134) and the label table (R135) of `s`. -/
structure SameProgram (s t : State) : Prop where
  program : t.program = s.program
  labels : t.labels = s.labels

theorem SameProgram.refl (s : State) : SameProgram s s := ⟨rfl, rfl⟩

theorem Undisturbed.sameProgram {s t : State} (h : Undisturbed s t) : SameProgram s t := ⟨h.program, h.labels⟩

namespace State

variable (s : State)

/-! ### The host's commands -/

theorem sameProgram_runTick (now : F64) : SameProgram s (s.runTick now) := by
  have started : SameProgram s (s.startTick now) := ⟨s.startTick_program now, s.startTick_labels now⟩
  cases hst : s.status with
  | noProgram | crashed => simpa only [State.runTick, hst] using SameProgram.refl s
  | ready | yielded => simpa only [State.runTick, hst] using started
  | sleeping t =>
    simp only [State.runTick, hst]
    split
    · exact started
    · exact SameProgram.refl s

theorem sameProgram_restart : SameProgram s s.restart := ⟨s.restart_program, s.restart_labels⟩

/-- A snapshot holds neither the program nor its labels (R146): the core must have the program installed. -/
theorem sameProgram_restore (snap : Snapshot) : SameProgram s (s.restore snap) := by
  unfold State.restore
  split
  · exact SameProgram.refl s
  · split
    · exact ⟨rfl, rfl⟩
    · exact SameProgram.refl s

theorem sameProgram_housingWrite (addr v : F64) : SameProgram s (s.housingWrite addr v) := by
  unfold State.housingWrite
  split
  · split
    · exact ⟨rfl, rfl⟩
    · exact SameProgram.refl s
  · exact SameProgram.refl s

theorem sameProgram_housingClear : SameProgram s s.housingClear := by
  unfold State.housingClear
  split
  · exact ⟨rfl, rfl⟩
  · exact SameProgram.refl s

/-- Every command but a load keeps the program and its labels. -/
theorem command_sameProgram_or_load (c : Command) : SameProgram s (s.command c) ∨ ∃ source, c = .load source := by
  cases c with
  | runTick now => exact .inl (s.sameProgram_runTick now)
  | reset => exact .inl s.sameProgram_restart
  | load source => exact .inr ⟨source, rfl⟩
  | bind pin handle => exact .inl ⟨rfl, rfl⟩
  | restore snap => exact .inl (s.sameProgram_restore snap)
  | housingWrite addr v => exact .inl (s.sameProgram_housingWrite addr v)
  | housingClear => exact .inl s.sameProgram_housingClear

/-! ### The steps of a tick -/

theorem sameProgram_fetchOutside : SameProgram s s.fetchOutside := by
  unfold State.fetchOutside
  split <;> exact ⟨rfl, rfl⟩

end State

/-- Of the ways a step can answer, only the host's load writes the program or its labels: an instruction leaves them
alone, and so do the sequencer and the ends of a tick. -/
theorem StepsTo.sameProgram_or_load {s t : State} (h : StepsTo s t) :
    SameProgram s t ∨ (s.inTick = false ∧ ∃ source rest, s.commands = .load source :: rest) := by
  cases h with
  | softStop => exact .inl ⟨s.softStop_program, s.softStop_labels⟩
  | outside => exact .inl s.sameProgram_fetchOutside
  | line _ _ r u _ executed =>
    have kept : SameProgram s.begin u := (exec_undisturbed executed).sameProgram
    exact .inl ⟨u.sequence_program.trans kept.program, u.sequence_labels.trans kept.labels⟩
  | idle => exact .inl (SameProgram.refl s)
  | command tick c rest next =>
    rcases State.command_sameProgram_or_load { s with commands := rest } c with kept | ⟨source, rfl⟩
    · exact .inl ⟨kept.program, kept.labels⟩
    · exact .inr ⟨tick, source, rest, next⟩

/-- Settles O56, by the ways a step can answer. -/
theorem programIsWrittenOnlyByLoad : Obligations.ProgramIsWrittenOnlyByLoad := by
  unfold Obligations.ProgramIsWrittenOnlyByLoad
  intro s t hst
  exact (stepsTo_of_step hst).sameProgram_or_load.imp_left fun kept => ⟨kept.program, kept.labels⟩

/-! ### The stack address check -/

section

variable {v : F64}

theorem stackAddr_of_truncInt_none (h : F64.truncInt v = none) : stackAddr v = .error (.raised .stackUnderflow) := by
  simp only [stackAddr, (toIdx_eq_error v .stackUnderflow _).2 ⟨h, rfl⟩]

variable {i : Int} (h : F64.truncInt v = some i)

include h

theorem stackAddr_of_negative (negative : i < 0) : stackAddr v = .error (.raised .stackUnderflow) := by
  simp only [stackAddr, (toIdx_eq_ok v .stackUnderflow i).2 h, negative, if_true]

theorem stackAddr_of_ge_capacity (beyond : (stackCapacity : Int) ≤ i) :
    stackAddr v = .error (.raised .stackOverflow) := by
  have nonnegative : ¬ i < 0 := not_lt.2 ((Int.natCast_nonneg _).trans beyond)
  simp only [stackAddr, (toIdx_eq_ok v .stackUnderflow i).2 h, nonnegative, beyond, if_true, if_false]

theorem stackAddr_of_in_stack (nonnegative : 0 ≤ i) (inside : i < stackCapacity) : stackAddr v = .ok i.toNat := by
  lift i to ℕ using nonnegative
  exact (stackAddr_eq_ok v i).2 ⟨h, Int.ofNat_lt.1 inside⟩

end

/-- Settles O19: the three ranges of the truncated index, and no index at all. -/
theorem stackAddressCheck : Obligations.StackAddressCheck := by
  unfold Obligations.StackAddressCheck
  exact fun v => ⟨stackAddr_of_truncInt_none, fun i h =>
    ⟨stackAddr_of_negative h, stackAddr_of_ge_capacity h, stackAddr_of_in_stack h⟩⟩

end Sys2Proof.Machine
end

section
/-! PROOFS. Lines and tokens (30_encoding.md R300 to R302): a text is cut into its maximal runs (O4). -/

namespace Sys2Proof.Lexer

/-! ### The runs of a text -/

section

variable {isDelim : Byte → Bool}

/-- No run that stands right before this text goes on into it. -/
def EndsRun (isDelim : Byte → Bool) (text : List Byte) : Prop := ∀ b ∈ text.head?, isDelim b = true

/-- All bytes of a text belong to runs. -/
def NoDelim (isDelim : Byte → Bool) (t : List Byte) : Prop := ∀ b ∈ t, isDelim b = false

theorem NoDelim.not_endsRun {t rest : List Byte} (clean : NoDelim isDelim t) (nonempty : t ≠ []) :
    ¬ EndsRun isDelim (t ++ rest) := by
  obtain ⟨b, t, rfl⟩ := List.exists_cons_of_ne_nil nonempty
  intro ends
  exact Bool.eq_false_iff.1 (clean b List.mem_cons_self) (ends b rfl)

/-- Every text is empty, begins with a delimiter, or begins with a maximal run. -/
theorem runs_induction {motive : List Byte → Prop} (nil : motive [])
    (delim : ∀ b rest, isDelim b = true → motive rest → motive (b :: rest))
    (run : ∀ t rest, t ≠ [] → NoDelim isDelim t → EndsRun isDelim rest → motive rest → motive (t ++ rest))
    (text : List Byte) : motive text := by
  induction h : text.length using Nat.strong_induction_on generalizing text with
  | _ n ih =>
    cases text with
    | nil => exact nil
    | cons b rest =>
      subst h
      cases hb : isDelim b with
      | true => exact delim b rest hb (ih _ (Nat.lt_succ_self _) rest rfl)
      | false =>
        rw [← List.takeWhile_append_dropWhile (p := fun c => !isDelim c) (l := b :: rest)]
        refine run _ _ (by simp [hb]) (fun c hc => by simpa using List.mem_takeWhile_imp hc) (fun c hc => ?_)
          (ih _ ?_ _ rfl)
        · have stopped := List.head?_dropWhile_not (fun c => !isDelim c) (b :: rest)
          rw [Option.mem_def.1 hc] at stopped
          simpa using stopped
        · rw [List.dropWhile_cons_of_pos (by simp [hb])]
          exact Nat.lt_succ_of_le (List.length_dropWhile_le _ _)

/-! ### `split_consecutive`, one byte at a time -/

variable {k : Nat} {b : Byte} {t rest : List Byte}

theorem splitConsecutive_delim (h : isDelim b = true) :
    splitConsecutive isDelim k (b :: rest) = splitConsecutive isDelim (k + 1) rest := by
  simp only [splitConsecutive, h, if_true]

theorem splitConsecutive_joined {ts : List (Nat × List Byte)} (h : isDelim b = false)
    (next : splitConsecutive isDelim (k + 1) rest = (k + 1, t) :: ts) :
    splitConsecutive isDelim k (b :: rest) = (k, b :: t) :: ts := by
  simp [splitConsecutive, h, next]

theorem splitConsecutive_alone (h : isDelim b = false)
    (apart : ∀ token ∈ (splitConsecutive isDelim (k + 1) rest).head?, token.1 ≠ k + 1) :
    splitConsecutive isDelim k (b :: rest) = (k, [b]) :: splitConsecutive isDelim (k + 1) rest := by
  simp only [splitConsecutive, h]
  cases next : splitConsecutive isDelim (k + 1) rest with
  | nil => rfl
  | cons token ts =>
    have := apart token (next ▸ rfl)
    simp [this]

/-- No token stands before the offset that the text begins at. -/
theorem le_of_mem_splitConsecutive {text : List Byte} {token : Nat × List Byte}
    (h : token ∈ splitConsecutive isDelim k text) : k ≤ token.1 := by
  induction text generalizing k token with
  | nil => cases h
  | cons b rest ih =>
    have later {token} (h : token ∈ splitConsecutive isDelim (k + 1) rest) : k ≤ token.1 := Nat.le_of_lt (ih h)
    cases hb : isDelim b with
    | true => exact later (splitConsecutive_delim hb ▸ h)
    | false =>
      by_cases joined : ∃ t ts, splitConsecutive isDelim (k + 1) rest = (k + 1, t) :: ts
      · obtain ⟨t, ts, next⟩ := joined
        rw [splitConsecutive_joined hb next] at h
        rcases List.mem_cons.1 h with rfl | h
        · exact Nat.le_refl k
        · exact later (next ▸ List.mem_cons_of_mem _ h)
      · have apart : ∀ first ∈ (splitConsecutive isDelim (k + 1) rest).head?, first.1 ≠ k + 1 := by
          rintro ⟨p, t⟩ hf rfl
          exact joined ⟨t, _, List.eq_cons_of_mem_head? hf⟩
        rw [splitConsecutive_alone hb apart] at h
        rcases List.mem_cons.1 h with rfl | h
        · exact Nat.le_refl k
        · exact later h

/-- A run that ends where `rest` begins is a token. -/
theorem splitConsecutive_run (nonempty : t ≠ []) (clean : NoDelim isDelim t) (ends : EndsRun isDelim rest) :
    splitConsecutive isDelim k (t ++ rest) = (k, t) :: splitConsecutive isDelim (k + t.length) rest := by
  induction t generalizing k with
  | nil => exact absurd rfl nonempty
  | cons b t ih =>
    have hb : isDelim b = false := clean b List.mem_cons_self
    cases t with
    | nil =>
      refine splitConsecutive_alone hb ?_
      -- the next token does not stand right behind `b`, since `rest` begins with a delimiter
      cases rest with
      | nil => exact fun _ h => nomatch h
      | cons d rest =>
        intro token ht
        have later : token ∈ splitConsecutive isDelim (k + 1) (d :: rest) := List.mem_of_mem_head? ht
        rw [splitConsecutive_delim (ends d rfl)] at later
        exact Nat.ne_of_gt (le_of_mem_splitConsecutive later)
    | cons c t =>
      have next := ih (k := k + 1) (by simp) fun b h => clean b (List.mem_cons_of_mem _ h)
      rw [List.cons_append, splitConsecutive_joined hb next, Nat.add_assoc, Nat.add_comm 1, List.length_cons (a := b)]

/-! ### The tokens are the maximal runs -/

/-- `token` is a maximal run of `text`, and its offset counts the bytes before it from `k` on. -/
structure IsMaximalRun (isDelim : Byte → Bool) (k : Nat) (text : List Byte) (token : Nat × List Byte)
    (before after : List Byte) : Prop where
  text_eq : text = before ++ token.2 ++ after
  offset : token.1 = k + before.length
  nonempty : token.2 ≠ []
  clean : NoDelim isDelim token.2
  starts : ∀ b ∈ before.getLast?, isDelim b = true
  ends : EndsRun isDelim after

theorem isMaximalRun_of_mem {text : List Byte} {token : Nat × List Byte}
    (h : token ∈ splitConsecutive isDelim k text) :
    ∃ before after, IsMaximalRun isDelim k text token before after := by
  induction text using runs_induction (isDelim := isDelim) generalizing k with
  | nil => cases h
  | delim b rest hb ih =>
    rw [splitConsecutive_delim hb] at h
    obtain ⟨before, after, run⟩ := ih h
    refine ⟨b :: before, after, { run with text_eq := ?_, offset := ?_, starts := ?_ }⟩
    · rw [run.text_eq]; rfl
    · rw [run.offset, List.length_cons, Nat.add_right_comm, Nat.add_assoc]
    · cases before with
      | nil => simpa using hb
      | cons c before => simpa using run.starts
  | run t rest nonempty clean ends ih =>
    rw [splitConsecutive_run nonempty clean ends] at h
    rcases List.mem_cons.1 h with rfl | h
    · exact ⟨[], rest, ⟨rfl, rfl, nonempty, clean, fun _ h => (nomatch h), ends⟩⟩
    · obtain ⟨before, after, run⟩ := ih h
      have separated : before ≠ [] := by
        rintro rfl
        exact run.clean.not_endsRun run.nonempty (run.text_eq ▸ ends)
      refine ⟨t ++ before, after, { run with text_eq := ?_, offset := ?_, starts := ?_ }⟩
      · rw [run.text_eq]; simp only [List.append_assoc]
      · rw [run.offset, List.length_append, Nat.add_assoc]
      · rw [List.getLast?_append_of_ne_nil _ separated]; exact run.starts

theorem flatten_splitConsecutive (text : List Byte) :
    ((splitConsecutive isDelim k text).map (·.2)).flatten = text.filter fun b => !isDelim b := by
  induction text using runs_induction (isDelim := isDelim) generalizing k with
  | nil => rfl
  | delim b rest hb ih => rw [splitConsecutive_delim hb, ih, List.filter_cons_of_neg (by simp [hb])]
  | run t rest nonempty clean ends ih =>
    have kept : t.filter (fun b => !isDelim b) = t := List.filter_eq_self.2 fun b hb => by simp [clean b hb]
    rw [splitConsecutive_run nonempty clean ends, List.map_cons, List.flatten_cons, ih, List.filter_append, kept]

theorem pairwise_splitConsecutive (text : List Byte) :
    (splitConsecutive isDelim k text).Pairwise fun a b => a.1 < b.1 := by
  induction text using runs_induction (isDelim := isDelim) generalizing k with
  | nil => exact .nil
  | delim b rest hb ih => rw [splitConsecutive_delim hb]; exact ih
  | run t rest nonempty clean ends ih =>
    rw [splitConsecutive_run nonempty clean ends]
    refine List.pairwise_cons.2 ⟨fun token h => ?_, ih⟩
    have := le_of_mem_splitConsecutive h
    have := List.length_pos_iff.2 nonempty
    dsimp only
    omega

end

/-- Settles O4: each token is a maximal run, and the tokens in order are all that is no delimiter. -/
theorem tokensAreMaximalRuns : Obligations.TokensAreMaximalRuns := by
  unfold Obligations.TokensAreMaximalRuns
  refine ⟨fun isDelim text => ⟨fun o t h => ?run, flatten_splitConsecutive text, pairwise_splitConsecutive text⟩,
    fun _ => rfl, by decide⟩
  obtain ⟨before, after, rfl, rfl, nonempty, clean, starts, ends⟩ := isMaximalRun_of_mem h
  simp only [Nat.zero_add]
  refine ⟨nonempty, clean, by simp, ?left, fun b hb => ends b ?right⟩
  case left =>
    rcases List.eq_nil_or_concat before with rfl | ⟨before, b, rfl⟩
    · exact .inl rfl
    · exact .inr ⟨b, by simp, starts b (by simp)⟩
  case right =>
    rw [← List.length_append, List.getElem?_append_right (Nat.le_refl _), Nat.sub_self] at hb
    rwa [List.head?_eq_getElem?]

end Sys2Proof.Lexer
end

section
/-! PROOFS. The texts that the encoder writes are read back: every datum is the rounding of itself, and the decimal
digits of a number spell it. -/

namespace Sys2Proof.F64

/-- Rounding an exact multiple of `2^j` units, where `j` is the exponent that rounding chooses for it. -/
theorem roundUnits_of_exponent (neg : Bool) {j c d : Nat} (hd : 0 < d) (hj : (c * 2 ^ j).log2 - 52 = j) :
    roundUnits neg (c * 2 ^ j * d) d = ofMagnitude neg (j * 2 ^ 52 + c) := by
  have hulp : 0 < d * 2 ^ j := Nat.mul_pos hd (Nat.two_pow_pos j)
  have exact : c * 2 ^ j * d = c * (d * 2 ^ j) := mul_mul_into_right c (2 ^ j) d
  have hq : c * 2 ^ j * d / d = c * 2 ^ j := Nat.mul_div_cancel _ hd
  simp only [roundUnits, hq, hj]
  simp only [exact, Nat.mul_div_cancel _ hulp, Nat.mul_mod_left, Nat.mul_zero]
  rw [if_neg (Nat.not_lt_zero _), if_neg (Nat.ne_of_lt hulp), Nat.add_zero]

theorem ofMagnitude_code (neg : Bool) (e : Fin 2047) (f : BitVec 52) {m : Nat} (hm : m = e.val * 2 ^ 52 + f.toNat) :
    ofMagnitude neg m = .fin neg e f := by
  have he := e.isLt
  have hf := f.isLt
  unfold ofMagnitude
  rw [if_neg (by omega)]
  congr 1
  · refine Fin.ext ?_
    rw [Fin.val_ofNat]
    omega
  · refine BitVec.eq_of_toNat_eq ?_
    rw [BitVec.toNat_ofNat]
    omega

/-- A finite datum is the rounding of its own value. -/
theorem roundUnits_units (neg : Bool) (e : Fin 2047) (f : BitVec 52) {d : Nat} (hd : 0 < d) :
    roundUnits neg (units e f * d) d = .fin neg e f := by
  have hf := f.isLt
  rw [units_eq]
  by_cases he : e.val = 0
  · -- subnormal: the grid is that of the unit itself
    have hlog : (f.toNat * 2 ^ 0).log2 - 52 = 0 := by
      rw [Nat.pow_zero, Nat.mul_one]
      rcases Nat.eq_zero_or_pos f.toNat with hz | hpos
      · rw [hz]; rfl
      · have := (Nat.log2_lt (Nat.ne_of_gt hpos)).2 hf
        omega
    rw [if_pos he, ← Nat.mul_one f.toNat, ← Nat.pow_zero 2, roundUnits_of_exponent neg hd hlog]
    exact ofMagnitude_code neg e f (by omega)
  · have hlog : ((2 ^ 52 + f.toNat) * 2 ^ (e.val - 1)).log2 = 52 + (e.val - 1) := by
      rw [Nat.log2_eq_iff (Nat.ne_of_gt (Nat.mul_pos (by omega) (Nat.two_pow_pos _))), Nat.add_right_comm 52,
        Nat.pow_add 2 52, Nat.pow_add 2 (52 + 1)]
      exact ⟨Nat.mul_le_mul_right _ (by omega), Nat.mul_lt_mul_of_pos_right (by omega) (Nat.two_pow_pos _)⟩
    rw [if_neg he, roundUnits_of_exponent neg hd (by rw [hlog]; omega)]
    exact ofMagnitude_code neg e f (by omega)

theorem two_pow_dvd_units {e : Fin 2047} {k : Nat} (h : k ≤ scale e) (f : BitVec 52) : 2 ^ k ∣ units e f :=
  Dvd.dvd.mul_left (Nat.pow_dvd_pow 2 h) _

end Sys2Proof.F64

namespace Sys2Proof

open Lexer Encoder

/-! ### Decimal digits -/

/-- `decimal` continued from a number. -/
def decimalFrom (n : Nat) (ds : List Byte) : Nat := ds.foldl (fun n d => 10 * n + (d.toNat - 0x30)) n

theorem decimal_eq (ds : List Byte) : decimal ds = decimalFrom 0 ds := rfl

/-- The byte of a number's last decimal digit. -/
abbrev lastDigit (n : Nat) : Byte := BitVec.ofNat 8 (0x30 + n % 10)

theorem toNat_lastDigit (n : Nat) : (lastDigit n).toNat = 0x30 + n % 10 := by
  rw [BitVec.toNat_ofNat]
  omega

theorem isDigit_lastDigit (n : Nat) : isDigit (lastDigit n) = true := by
  unfold isDigit
  rw [toNat_lastDigit, Bool.and_eq_true, decide_eq_true_eq, decide_eq_true_eq]
  omega

theorem decimalFrom_lastDigit (m n : Nat) (ds : List Byte) :
    decimalFrom m (lastDigit n :: ds) = decimalFrom (10 * m + n % 10) ds := by
  simp only [decimalFrom, List.foldl_cons, toNat_lastDigit, Nat.add_sub_cancel_left]

theorem digitsInto_succ (fuel n : Nat) (acc : List Byte) :
    digitsInto (fuel + 1) n acc =
      if n < 10 then lastDigit n :: acc else digitsInto fuel (n / 10) (lastDigit n :: acc) := rfl

theorem decimalFrom_digitsInto {fuel n : Nat} (h : n < 10 ^ fuel) (acc : List Byte) :
    decimalFrom 0 (digitsInto fuel n acc) = decimalFrom n acc := by
  induction fuel generalizing n acc with
  | zero =>
    obtain rfl : n = 0 := by omega
    rfl
  | succ fuel ih =>
    rw [digitsInto_succ]
    split
    · rw [decimalFrom_lastDigit]
      congr 1
      omega
    · rw [ih (by rw [Nat.pow_succ] at h; omega), decimalFrom_lastDigit]
      congr 1
      omega

theorem digitsInto_ne_nil {acc : List Byte} (h : acc ≠ []) (fuel n : Nat) : digitsInto fuel n acc ≠ [] := by
  induction fuel generalizing n acc with
  | zero => exact h
  | succ fuel ih =>
    rw [digitsInto_succ]
    split
    · exact List.cons_ne_nil _ _
    · exact ih (List.cons_ne_nil _ _) _

theorem isDigit_of_mem_digitsInto {acc : List Byte} (h : ∀ b ∈ acc, isDigit b = true) (fuel n : Nat) :
    ∀ b ∈ digitsInto fuel n acc, isDigit b = true := by
  induction fuel generalizing n acc with
  | zero => exact h
  | succ fuel ih =>
    have hacc : ∀ b ∈ lastDigit n :: acc, isDigit b = true := List.forall_mem_cons.2 ⟨isDigit_lastDigit n, h⟩
    rw [digitsInto_succ]
    split
    · exact hacc
    · exact ih hacc _

theorem decimal_natText (n : Nat) : decimal (natText n) = n := by
  have hfuel : n < 10 ^ (n.log2 + 1) :=
    Nat.lt_of_lt_of_le Nat.lt_log2_self (Nat.pow_le_pow_left (by decide) _)
  rw [decimal_eq, natText, decimalFrom_digitsInto hfuel]
  rfl

theorem isDigit_of_mem_natText {n : Nat} : ∀ b ∈ natText n, isDigit b = true :=
  isDigit_of_mem_digitsInto (List.forall_mem_nil _) _ _

theorem natText_ne_nil (n : Nat) : natText n ≠ [] := by
  rw [natText, digitsInto_succ]
  split
  · exact List.cons_ne_nil _ _
  · exact digitsInto_ne_nil (List.cons_ne_nil _ _) _ _

theorem isDecimal_natText (n : Nat) : isDecimal (natText n) = true := by
  simp only [isDecimal, List.isEmpty_eq_false_iff.2 (natText_ne_nil n), List.all_eq_true.2 isDigit_of_mem_natText,
    Bool.not_false, Bool.and_self]

theorem exists_natText_eq_cons (n : Nat) : ∃ b ds, natText n = b :: ds ∧ isDigit b = true := by
  obtain ⟨b, ds, h⟩ := List.exists_cons_of_ne_nil (natText_ne_nil n)
  exact ⟨b, ds, h, isDigit_of_mem_natText b (h ▸ List.mem_cons_self)⟩

/-! ### Registers and pins (R315, R316) -/

theorem lettersThenDigits_text (k n : Nat) :
    lettersThenDigits (List.replicate k 0x72#8 ++ natText n) = some (k, n) := by
  have letters : ∀ b ∈ List.replicate k 0x72#8, (b == 0x72#8) = true := fun b hb => by
    rw [List.eq_of_mem_replicate hb]; rfl
  obtain ⟨b, ds, hn, hb⟩ := exists_natText_eq_cons n
  have stops : (b == 0x72#8) = false := by
    refine beq_eq_false_iff_ne.2 fun h => ?_
    rw [h] at hb
    exact absurd hb (by decide)
  have hk : ((List.replicate k 0x72#8 ++ natText n).takeWhile (· == 0x72#8)).length = k := by
    rw [List.takeWhile_append_of_pos letters, hn, List.takeWhile_cons, stops]
    simp
  have hds : (List.replicate k 0x72#8 ++ natText n).dropWhile (· == 0x72#8) = natText n := by
    rw [List.dropWhile_append_of_pos letters, hn, List.dropWhile_cons, stops]
    rfl
  simp only [lettersThenDigits, hk, hds, isDecimal_natText, decimal_natText, if_true]

theorem lettersThenDigits_of_head {b : Byte} (h : b ≠ 0x72#8) (t : List Byte) :
    lettersThenDigits (b :: t) = if isDecimal (b :: t) then some (0, decimal (b :: t)) else none := by
  have stops : (b == 0x72#8) = false := beq_eq_false_iff_ne.2 h
  simp [lettersThenDigits, stops]

theorem registerToken_of_head {b : Byte} (hr : b ≠ 0x72#8) (hs : b ≠ 0x73#8) (t : List Byte) :
    registerToken (b :: t) = none := by
  have hsp : b :: t ≠ bytes "sp" := fun h => hs (List.cons.inj h).1
  have hra : b :: t ≠ bytes "ra" := fun h => hr (List.cons.inj h).1
  simp only [registerToken, if_neg hsp, if_neg hra, lettersThenDigits_of_head hr]
  split
  · next k n h => split at h <;> cases h
  · rfl

theorem pinToken_of_head {b : Byte} (h : b ≠ 0x64#8) (t : List Byte) : pinToken (b :: t) = none := by
  have hdb : b :: t ≠ bytes "db" := fun e => h (List.cons.inj e).1
  simp only [pinToken, if_neg hdb]
  split
  · next rest e => exact absurd (List.cons.inj e).1 h
  · rfl

theorem lex_of_registerToken {t : List Byte} {k : Token} (h : registerToken t = some k) : lex t = k := by
  simp only [lex, h]

theorem lex_of_pinToken {t : List Byte} {k : Token} (hr : registerToken t = none) (h : pinToken t = some k) :
    lex t = k := by
  simp only [lex, hr, h]

theorem lex_regText (r : Reg) : lex (regText r) = .reg r := by
  cases r with
  | sp => rfl
  | ra => rfl
  | gpr n k =>
    have hletters : lettersThenDigits (regText (.gpr n k)) = some (k + 1, n.val) := lettersThenDigits_text (k + 1) n
    have hsp : regText (.gpr n k) ≠ bytes "sp" := fun h => absurd (List.cons.inj h).1 (by decide)
    have hra : regText (.gpr n k) ≠ bytes "ra" := fun h => by rw [h] at hletters; cases hletters
    refine lex_of_registerToken ?_
    simp only [registerToken, if_neg hsp, if_neg hra, hletters, dif_pos n.isLt]

theorem lex_pinText {p : PinRef} (h : p.wf = true) : lex (pinText p) = .pin p := by
  cases p with
  | direct p =>
    cases p with
    | db => rfl
    | d p => revert p; decide
  | ind n k =>
    obtain ⟨k, rfl⟩ := Nat.exists_eq_add_one_of_ne_zero (Nat.ne_of_gt (of_decide_eq_true h))
    have hdb : pinText (.ind n (k + 1)) ≠ bytes "db" := fun h =>
      absurd (List.cons.inj (List.cons.inj h).2).1 (by decide)
    refine lex_of_pinToken (registerToken_of_head (by decide) (by decide) _) ?_
    simp only [pinToken, if_neg hdb]
    simp only [pinText, lettersThenDigits_text, dif_pos n.isLt]

/-! ### Number literals (R317) -/

/-- The magnitude of a finite literal, without its sign. -/
def magnitudeText (e : Fin 2047) (f : BitVec 52) : List Byte :=
  if F64.units e f % F64.unitsPerOne = 0 then natText (F64.units e f / F64.unitsPerOne)
  else natText (F64.sig e f * 5 ^ (1074 - F64.scale e)) ++ 0x65#8 :: 0x2D#8 :: natText (1074 - F64.scale e)

theorem numText_fin (s : Bool) (e : Fin 2047) (f : BitVec 52) :
    numText (.fin s e f) = if s then 0x2D#8 :: magnitudeText e f else magnitudeText e f := by
  simp [numText, magnitudeText, show bytes "e-" = [0x65#8, 0x2D#8] from rfl]

/-- A decimal literal without a fraction part. -/
theorem unsignedDecimal_natText (neg : Bool) (n : Nat) {rest : List Byte} {x : Int}
    (digitsEnd : ∀ b ∈ rest.head?, isDigit b = false) (noFraction : fractionPart rest = some ([], rest))
    (exponent : exponentPart rest = some x) :
    unsignedDecimal neg (natText n ++ rest) = some (scaledDecimal neg n x) := by
  have hrest : rest.takeWhile isDigit = [] ∧ rest.dropWhile isDigit = rest := by
    cases rest with
    | nil => exact ⟨rfl, rfl⟩
    | cons b rest => simp [digitsEnd b rfl]
  have hwhole : (natText n ++ rest).takeWhile isDigit = natText n := by
    rw [List.takeWhile_append_of_pos isDigit_of_mem_natText, hrest.1, List.append_nil]
  have hafter : (natText n ++ rest).dropWhile isDigit = rest := by
    rw [List.dropWhile_append_of_pos isDigit_of_mem_natText, hrest.2]
  simp only [unsignedDecimal, hwhole, hafter, List.isEmpty_eq_false_iff.2 (natText_ne_nil n), noFraction, exponent,
    List.append_nil, decimal_natText, List.length_nil]
  simp

theorem exponentPart_negative (j : Nat) : exponentPart (0x65#8 :: 0x2D#8 :: natText j) = some (-(j : Int)) := by
  simp [exponentPart, isDecimal_natText, decimal_natText]

theorem scaledDecimal_zero (neg : Bool) (n : Nat) :
    scaledDecimal neg n 0 = F64.roundUnits neg (n * F64.unitsPerOne) 1 := by
  simp [scaledDecimal, F64.ofRatio]

theorem scaledDecimal_negative (neg : Bool) (n : Nat) {j : Nat} (hj : 0 < j) :
    scaledDecimal neg n (-(j : Int)) = F64.roundUnits neg (n * F64.unitsPerOne) (10 ^ j) := by
  simp [scaledDecimal, F64.ofRatio, Nat.ne_of_gt hj]

theorem unsignedDecimal_magnitudeText (neg : Bool) (e : Fin 2047) (f : BitVec 52) :
    unsignedDecimal neg (magnitudeText e f) = some (.fin neg e f) := by
  unfold magnitudeText
  split
  · next integral =>
    rw [← List.append_nil (natText _), unsignedDecimal_natText neg _ (by simp) rfl rfl, scaledDecimal_zero,
      Nat.div_mul_cancel (Nat.dvd_of_mod_eq_zero integral), ← Nat.mul_one (F64.units e f),
      F64.roundUnits_units neg e f Nat.one_pos]
  · next fractional =>
    have hscale : F64.scale e < 1074 := by
      by_contra hge
      rw [F64.unitsPerOne_eq] at fractional
      exact fractional (Nat.mod_eq_zero_of_dvd (F64.two_pow_dvd_units (Nat.le_of_not_lt hge) f))
    obtain ⟨j, hj⟩ := Nat.exists_eq_add_of_le (Nat.le_of_lt hscale)
    have hvalue : F64.sig e f * 5 ^ j * F64.unitsPerOne = F64.units e f * 10 ^ j := by
      have hone : F64.unitsPerOne = 2 ^ F64.scale e * 2 ^ j :=
        F64.unitsPerOne_eq.trans ((congrArg (2 ^ ·) hj).trans (Nat.pow_add 2 _ j))
      have hten : (10 : Nat) ^ j = 5 ^ j * 2 ^ j := Nat.mul_pow 5 2 j
      rw [hone, hten, F64.units]
      ring
    rw [show 1074 - F64.scale e = j by omega,
      unsignedDecimal_natText neg _ (fun b hb => by cases hb; rfl) rfl (exponentPart_negative j),
      scaledDecimal_negative neg _ (by omega), hvalue, F64.roundUnits_units neg e f (Nat.pow_pos (by decide))]

theorem exists_magnitudeText_eq_cons (e : Fin 2047) (f : BitVec 52) :
    ∃ b ds, magnitudeText e f = b :: ds ∧ isDigit b = true := by
  unfold magnitudeText
  split
  · exact exists_natText_eq_cons _
  · obtain ⟨b, ds, h, hb⟩ := exists_natText_eq_cons (F64.sig e f * 5 ^ (1074 - F64.scale e))
    exact ⟨b, _, by rw [h]; rfl, hb⟩

/-- A token that begins with a digit or a minus sign is a decimal literal or malformed. -/
theorem lex_of_decimalLiteral {b : Byte} {t : List Byte} {v : F64} (hb : isDigit b = true ∨ b = 0x2D#8)
    (h : decimalLiteral (b :: t) = some v) : lex (b :: t) = .num v := by
  have others : ∀ b : Byte, isDigit b = true ∨ b = 0x2D#8 → b ≠ 0x72#8 ∧ b ≠ 0x73#8 ∧ b ≠ 0x64#8 ∧ b ≠ 0x6E#8 ∧
      b ≠ 0x70#8 ∧ b ≠ 0x24#8 ∧ b ≠ 0x25#8 ∧ b ≠ 0x48#8 := by decide
  obtain ⟨hr, hs, hd, hn, hp, hdollar, hpercent, hH⟩ := others b hb
  have hconst : namedConstant (b :: t) = none := by
    have other {c : Byte} {u w : List Byte} (hw : w = c :: u) (h : b ≠ c) : b :: t ≠ w := fun e =>
      h (List.cons.inj (e.trans hw)).1
    simp only [namedConstant]
    rw [if_neg (other (w := bytes "nan") rfl hn), if_neg (other (w := bytes "pi") rfl hp),
      if_neg (other (w := bytes "pinf") rfl hp), if_neg (other (w := bytes "ninf") rfl hn),
      if_neg (other (w := bytes "deg2rad") rfl hd), if_neg (other (w := bytes "rad2deg") rfl hr)]
  have hstart : startsLikeNumber (b :: t) = true := by
    rcases hb with hb | rfl
    · simp [startsLikeNumber, hb]
    · rfl
  have hhash : ¬ ((b :: t).take 5 == bytes "HASH(") = true := fun e => hH (List.cons.inj (eq_of_beq e)).1
  have hnum : numberLiteral (b :: t) = some v := by
    unfold numberLiteral
    split
    · next e => exact absurd (List.cons.inj e).1 hdollar
    · next e => exact absurd (List.cons.inj e).1 hpercent
    · rw [if_neg hhash, h]
  simp only [lex, registerToken_of_head hr hs, pinToken_of_head hd, hconst, hstart, hnum, if_true]

theorem decimalLiteral_of_digit {b : Byte} (hb : isDigit b = true) (t : List Byte) :
    decimalLiteral (b :: t) = unsignedDecimal false (b :: t) := by
  unfold decimalLiteral
  split
  · next e =>
    rw [(List.cons.inj e).1] at hb
    exact absurd hb (by decide)
  · rfl

/-- A datum's literal is read as that datum: as a named constant, or as a number. -/
theorem lex_numText (v : F64) : lex (numText v) = .num v ∨ lex (numText v) = .const v := by
  cases v with
  | nan => exact .inr rfl
  | inf s => cases s <;> exact .inr rfl
  | fin s e f =>
    left
    have hvalue := unsignedDecimal_magnitudeText s e f
    obtain ⟨b, ds, htext, hb⟩ := exists_magnitudeText_eq_cons e f
    rw [numText_fin]
    rw [htext] at hvalue ⊢
    cases s with
    | false => exact lex_of_decimalLiteral (.inl hb) ((decimalLiteral_of_digit hb ds).trans hvalue)
    | true => exact lex_of_decimalLiteral (.inr rfl) hvalue

end Sys2Proof
end

section
/-! PROOFS. The opcode table (30_encoding.md R312, R350): what the operands of a row build, and what a mnemonic names.
-/

namespace Sys2Proof

/-- The operand descriptors that a slot of each kind can hold (R314). -/
def Slot.takes : Slot → Operand → Prop
  | .reg, o => ∃ r, o = .ofRegOp r
  | .val, o => ∃ a, o = .ofValOp a
  | .pin, o => ∃ d, o = .ofPinOp d
  | .lt, o | .slt, o | .rm, o => ∃ k, o = .ofKeyOp k
  | .bm, o => ∃ m, o = .ofModeOp m
  | .newName, o => ∃ s, o = .newName s
  | .target, o => ∃ t, o = .ofTarget t
  | .num, o => ∃ v, o = .num v

namespace Operand

variable {o : Operand}

theorem eq_ofRegOp {r : RegOp} (h : o.toRegOp = some r) : o = .ofRegOp r := by cases o <;> cases h <;> rfl
theorem eq_ofValOp {a : ValOp} (h : o.toValOp = some a) : o = .ofValOp a := by cases o <;> cases h <;> rfl
theorem eq_ofPinOp {d : PinOp} (h : o.toPinOp = some d) : o = .ofPinOp d := by cases o <;> cases h <;> rfl
theorem eq_ofKeyOp {k : KeyOp} (h : o.toKeyOp = some k) : o = .ofKeyOp k := by cases o <;> cases h <;> rfl
theorem eq_ofModeOp {m : ModeOp} (h : o.toModeOp = some m) : o = .ofModeOp m := by cases o <;> cases h <;> rfl
theorem eq_ofTarget {t : Target} (h : o.toTarget = some t) : o = .ofTarget t := by cases o <;> cases h <;> rfl
theorem eq_newName {s : Ident} (h : o.toNewName = some s) : o = .newName s := by
  cases o <;> cases h
  rfl
theorem eq_num {v : F64} (h : o.toNum = some v) : o = .num v := by
  cases o <;> cases h
  rfl

end Operand

namespace Build

/-- After the operands `taken`, operands for `slots` build an instruction of the row, whose operands are all of
these. -/
inductive Makes (row : OpRow) : List Operand → List Slot → Rest → Prop
  | done {i : Instr} {taken : List Operand} (hrow : i.row? = some row) (ho : i.operands = taken) :
      Makes row taken [] (done i)
  | reg {taken slots k} (h : ∀ r, Makes row (taken ++ [.ofRegOp r]) slots (k r)) :
      Makes row taken (.reg :: slots) (withReg k)
  | val {taken slots k} (h : ∀ a, Makes row (taken ++ [.ofValOp a]) slots (k a)) :
      Makes row taken (.val :: slots) (withVal k)
  | pin {taken slots k} (h : ∀ d, Makes row (taken ++ [.ofPinOp d]) slots (k d)) :
      Makes row taken (.pin :: slots) (withPin k)
  | lt {taken slots k} (h : ∀ a, Makes row (taken ++ [.ofKeyOp a]) slots (k a)) :
      Makes row taken (.lt :: slots) (withKey k)
  | slt {taken slots k} (h : ∀ a, Makes row (taken ++ [.ofKeyOp a]) slots (k a)) :
      Makes row taken (.slt :: slots) (withKey k)
  | rm {taken slots k} (h : ∀ a, Makes row (taken ++ [.ofKeyOp a]) slots (k a)) :
      Makes row taken (.rm :: slots) (withKey k)
  | bm {taken slots k} (h : ∀ m, Makes row (taken ++ [.ofModeOp m]) slots (k m)) :
      Makes row taken (.bm :: slots) (withMode k)
  | newName {taken slots k} (h : ∀ s, Makes row (taken ++ [.newName s]) slots (k s)) :
      Makes row taken (.newName :: slots) (withNewName k)
  | target {taken slots k} (h : ∀ t, Makes row (taken ++ [.ofTarget t]) slots (k t)) :
      Makes row taken (.target :: slots) (withTarget k)
  | num {taken slots k} (h : ∀ v, Makes row (taken ++ [.num v]) slots (k v)) :
      Makes row taken (.num :: slots) (withNum k)

/-- What `Makes` says of the operands still to come. -/
def Sound (row : OpRow) (taken : List Operand) (slots : List Slot) (k : Rest) : Prop :=
  ∀ ops i, k ops = some i → i.row? = some row ∧ i.operands = taken ++ ops ∧ List.Forall₂ Slot.takes slots ops

theorem sound_take {α : Type} {conv : Operand → Option α} {of : α → Operand} {row : OpRow} {taken : List Operand}
    {slot : Slot} {slots : List Slot} {k : α → Rest} (inverse : ∀ {o a}, conv o = some a → o = of a)
    (fits : ∀ a, slot.takes (of a)) (h : ∀ a, Sound row (taken ++ [of a]) slots (k a)) :
    Sound row taken (slot :: slots) (take conv k) := by
  intro ops i build
  cases ops with
  | nil => cases build
  | cons o ops =>
    simp only [take] at build
    split at build
    · next a ha =>
      obtain rfl := inverse ha
      obtain ⟨hrow, ho, hops⟩ := h a ops i build
      exact ⟨hrow, ho.trans (List.append_cons _ _ _).symm, .cons (fits a) hops⟩
    · cases build

theorem Makes.sound {row : OpRow} {taken : List Operand} {slots : List Slot} {k : Rest}
    (h : Makes row taken slots k) : Sound row taken slots k := by
  induction h with
  | done hrow ho =>
    intro ops i build
    cases ops with
    | nil =>
      obtain rfl := Option.some.inj build
      exact ⟨hrow, by rw [ho, List.append_nil], .nil⟩
    | cons => cases build
  | reg _ ih => exact sound_take Operand.eq_ofRegOp (fun a => ⟨a, rfl⟩) ih
  | val _ ih => exact sound_take Operand.eq_ofValOp (fun a => ⟨a, rfl⟩) ih
  | pin _ ih => exact sound_take Operand.eq_ofPinOp (fun a => ⟨a, rfl⟩) ih
  | lt _ ih | slt _ ih | rm _ ih => exact sound_take Operand.eq_ofKeyOp (fun a => ⟨a, rfl⟩) ih
  | bm _ ih => exact sound_take Operand.eq_ofModeOp (fun a => ⟨a, rfl⟩) ih
  | newName _ ih => exact sound_take Operand.eq_newName (fun a => ⟨a, rfl⟩) ih
  | target _ ih => exact sound_take Operand.eq_ofTarget (fun a => ⟨a, rfl⟩) ih
  | num _ ih => exact sound_take Operand.eq_num (fun a => ⟨a, rfl⟩) ih

theorem makes_of_mem : ∀ row ∈ opcodeTable, Makes row [] row.slots row.build := by
  simp only [opcodeTable, opcodeRows0, opcodeRows1, opcodeRows2, opcodeRows3, opcodeRows4, opcodeRows5,
    List.forall_mem_append, List.forall_mem_cons, List.not_mem_nil, false_imp_iff, implies_true, and_true]
  repeat' (intros; constructor)

end Build

namespace Laws.RecordRoundTrip

/-- The statement of the family, of every instruction. -/
theorem every (i : Instr) : Statement i := by
  cases i
  exacts [abs _ _, acos _ _, add _ _ _, asin _ _, atan _ _, atan2 _ _ _, ceil _ _, cos _ _, div _ _ _, exp _ _,
    floor _ _, log _ _, max _ _ _, min _ _ _, mod _ _ _, move _ _, mul _ _ _, rand _, round _ _, select _ _ _ _,
    sin _ _, sqrt _ _, sub _ _ _, tan _ _, trunc _ _, and _ _ _, nor _ _ _, not _ _, or _ _ _, sla _ _ _, sll _ _ _,
    sra _ _ _, srl _ _ _, xor _ _ _, sap _ _ _ _, sapz _ _ _, seq _ _ _, seqz _ _, sge _ _ _, sgez _ _, sgt _ _ _,
    sgtz _ _, sle _ _ _, slez _ _, slt _ _ _, sltz _ _, sna _ _ _ _, snan _ _, snanz _ _, snaz _ _ _, sne _ _ _,
    snez _ _, clr _, clrd _, get _ _ _, getd _ _ _, l _ _ _, lb _ _ _ _, lbn _ _ _ _ _, lbns _ _ _ _ _ _,
    lbs _ _ _ _ _, ld _ _ _, lr _ _ _ _, ls _ _ _ _, put _ _ _, putd _ _ _, s _ _ _, sb _ _ _, sbn _ _ _ _,
    sbs _ _ _ _, sd _ _ _, sdns _ _, sdse _ _, ss _ _ _ _, peek _, poke _ _, pop _, push _, bap _ _ _ _,
    bapal _ _ _ _, bapz _ _ _, bapzal _ _ _, bdns _ _, bdnsal _ _, bdse _ _, bdseal _ _, beq _ _ _, beqal _ _ _,
    beqz _ _, beqzal _ _, bge _ _ _, bgeal _ _ _, bgez _ _, bgezal _ _, bgt _ _ _, bgtal _ _ _, bgtz _ _, bgtzal _ _,
    ble _ _ _, bleal _ _ _, blez _ _, blezal _ _, blt _ _ _, bltal _ _ _, bltz _ _, bltzal _ _, bna _ _ _ _,
    bnaal _ _ _ _, bnan _ _, bnaz _ _ _, bnazal _ _ _, bne _ _ _, bneal _ _ _, bnez _ _, bnezal _ _, brap _ _ _ _,
    brapz _ _ _, brdns _ _, brdse _ _, breq _ _ _, breqz _ _, brge _ _ _, brgez _ _, brgt _ _ _, brgtz _ _,
    brle _ _ _, brlez _ _, brlt _ _ _, brltz _ _, brna _ _ _ _, brnan _ _, brnaz _ _ _, brne _ _ _, brnez _ _, j _,
    jal _, jr _, nop, aliasOp _ _, define _ _, hcf, label _ _, sleep _, yield]

end Laws.RecordRoundTrip

namespace Instr

variable {i : Instr} {row : OpRow} {ops : List Operand}

theorem row?_eq_some (i : Instr) : ∃ row, i.row? = some row ∧ row ∈ opcodeTable ∧ row.build i.operands = some i := by
  have record : ofRecord i.tag i.operands = some i := Laws.RecordRoundTrip.every i
  unfold ofRecord at record
  split at record
  · next row hrow => exact ⟨row, hrow, List.mem_of_getElem? hrow, record⟩
  · cases record

theorem slots_of_row? (h : i.row? = some row) : i.slots = row.slots := by simp only [slots, h]

theorem mnemonic_of_row? (h : i.row? = some row) : i.mnemonic = row.mnemonic := by simp only [mnemonic, h]

/-- What a row builds belongs to the row and has the operands it was built from, each of its slot's kind. -/
theorem of_build (hrow : row ∈ opcodeTable) (h : row.build ops = some i) :
    i.row? = some row ∧ i.operands = ops ∧ List.Forall₂ Slot.takes row.slots ops :=
  (Build.makes_of_mem row hrow).sound ops i h

/-- Every operand of an instruction is of its slot's kind. -/
theorem takes_operands (i : Instr) : List.Forall₂ Slot.takes i.slots i.operands := by
  obtain ⟨row, hrow, hmem, hbuild⟩ := i.row?_eq_some
  obtain ⟨-, -, takes⟩ := of_build hmem hbuild
  rwa [slots_of_row? hrow]

theorem mnemonic_ne_nil (h : i ≠ .nop) : i.mnemonic ≠ [] := by
  cases i
  case nop => exact absurd rfl h
  all_goals exact List.cons_ne_nil _ _

end Instr

/-! ### Mnemonics -/

theorem find?_of_nodup {α β : Type} [BEq β] [LawfulBEq β] {f : α → β} {l : List α} (distinct : (l.map f).Nodup) {a : α}
    (h : a ∈ l) : l.find? (f · == f a) = some a := by
  induction l with
  | nil => cases h
  | cons b l ih =>
    obtain ⟨apart, distinct⟩ := List.nodup_cons.1 distinct
    rcases List.mem_cons.1 h with rfl | h
    · simp
    · have hne : f b ≠ f a := fun e => apart (e ▸ List.mem_map_of_mem h)
      rw [List.find?_cons_of_neg (by simpa using hne), ih distinct h]

theorem mnemonics_nodup : (opcodeTable.map (·.mnemonic)).Nodup := by decide +kernel

/-- Mnemonics are of lower-case letters and digits. -/
theorem mnemonics_spelling : ∀ row ∈ opcodeTable, ∀ b ∈ row.mnemonic, (Lexer.isLower b || Lexer.isDigit b) = true := by
  have checked : (opcodeTable.all fun row => row.mnemonic.all fun b => Lexer.isLower b || Lexer.isDigit b) = true := by
    decide +kernel
  simpa only [List.all_eq_true] using checked

namespace Decoder

open Lexer

variable {t : List Byte} {row : OpRow}

theorem rowOf_eq_some (h : rowOf t = some row) : row ∈ opcodeTable ∧ row.mnemonic = t.map toLower := by
  simp only [rowOf] at h
  split at h
  · cases h
  · exact ⟨List.mem_of_find?_eq_some h, by simpa using List.find?_some h⟩

theorem toLower_of_lower {b : Byte} (h : (isLower b || isDigit b) = true) : toLower b = b := by
  revert b
  decide

/-- A row's own mnemonic names it. -/
theorem rowOf_mnemonic (hrow : row ∈ opcodeTable) (h : row.mnemonic ≠ []) : rowOf row.mnemonic = some row := by
  have lower : row.mnemonic.map toLower = row.mnemonic := by
    rw [List.map_congr_left fun b hb => toLower_of_lower (mnemonics_spelling row hrow b hb), List.map_id']
  simp only [rowOf, lower, List.isEmpty_eq_false_iff.2 h]
  exact find?_of_nodup mnemonics_nodup hrow

/-- A label's name is followed by a colon, which no mnemonic ends with. -/
theorem labelName_mnemonic (hrow : row ∈ opcodeTable) : labelName row.mnemonic = none := by
  have noColon : row.mnemonic.getLast? ≠ some 0x3A#8 := fun h =>
    absurd (mnemonics_spelling row hrow _ (List.mem_of_mem_getLast? h)) (by decide)
  simp only [labelName, noColon, false_and, if_false]

end Decoder

end Sys2Proof
end

section
/-! PROOFS. The encoder's lines are read back (30_encoding.md R370): from the bytes of the line (O2), and from its table
word (O3). -/

namespace Sys2Proof

open Lexer Encoder Decoder

/-! ### Words: what stands between the spaces of an encoded line -/

/-- Neither a delimiter, nor the comment sign, nor the padding of a table word. -/
def isWordByte (b : Byte) : Bool := !isBlank b && b != 0x23#8 && b != 0#8

/-- A word of a line. -/
structure IsWord (t : List Byte) : Prop where
  nonempty : t ≠ []
  bytes : ∀ b ∈ t, isWordByte b = true

theorem isWordByte_of_digit {b : Byte} : isDigit b = true → isWordByte b = true := by
  revert b
  decide

theorem isWordByte_of_identByte {b : Byte} : isIdentByte b = true → isWordByte b = true := by
  revert b
  decide

theorem identByte_of_lower {b : Byte} : (isLower b || isDigit b) = true → isIdentByte b = true := by
  revert b
  decide

theorem IsWord.cons {b : Byte} {t : List Byte} (hb : isWordByte b = true) (h : IsWord t) : IsWord (b :: t) :=
  ⟨List.cons_ne_nil b t, List.forall_mem_cons.2 ⟨hb, h.bytes⟩⟩

theorem IsWord.append {t u : List Byte} (ht : ∀ b ∈ t, isWordByte b = true) (h : IsWord u) : IsWord (t ++ u) :=
  ⟨List.append_ne_nil_of_right_ne_nil t h.nonempty, List.forall_mem_append.2 ⟨ht, h.bytes⟩⟩

theorem isWord_natText (n : Nat) : IsWord (natText n) :=
  ⟨natText_ne_nil n, fun b hb => isWordByte_of_digit (isDigit_of_mem_natText b hb)⟩

theorem isWord_lettersText (k n : Nat) : IsWord (List.replicate k 0x72#8 ++ natText n) :=
  .append (fun b hb => by rw [List.eq_of_mem_replicate hb]; rfl) (isWord_natText n)

theorem isWord_regText (r : Reg) : IsWord (regText r) := by
  cases r with
  | sp | ra => exact ⟨by decide, by decide⟩
  | gpr n k => exact isWord_lettersText (k + 1) n

theorem isWord_pinText (p : PinRef) : IsWord (pinText p) := by
  rcases p with (p | _) | ⟨n, k⟩
  · exact .cons rfl (isWord_natText p)
  · exact ⟨by decide, by decide⟩
  · exact .cons rfl (isWord_lettersText k n)

theorem isWord_magnitudeText (e : Fin 2047) (f : BitVec 52) : IsWord (magnitudeText e f) := by
  unfold magnitudeText
  split
  · exact isWord_natText _
  · exact .append (isWord_natText _).bytes (.cons rfl (.cons rfl (isWord_natText _)))

theorem isWord_numText (v : F64) : IsWord (numText v) := by
  rcases v with _ | (_ | _) | ⟨s, e, f⟩
  · exact ⟨by decide, by decide⟩
  · exact ⟨by decide, by decide⟩
  · exact ⟨by decide, by decide⟩
  · rw [numText_fin]
    split
    · exact .cons rfl (isWord_magnitudeText e f)
    · exact isWord_magnitudeText e f

theorem isWord_spelling (m : BatchMode) : IsWord m.spelling := by
  cases m <;> exact ⟨by decide, by decide⟩

/-! ### Identifiers (R318) -/

theorem registerToken_ne_ident (t : List Byte) (s : Ident) : registerToken t ≠ some (.ident s) := by
  unfold registerToken
  repeat' split
  all_goals simp

theorem pinToken_ne_ident (t : List Byte) (s : Ident) : pinToken t ≠ some (.ident s) := by
  unfold pinToken
  repeat' split
  all_goals simp

/-- An identifier token is its own text, which has the shape of an identifier. -/
theorem lex_eq_ident {t : List Byte} {s : Ident} (h : lex t = .ident s) : s = t ∧ identShape t = true := by
  unfold lex at h
  split at h
  · next hr => exact absurd (h ▸ hr) (registerToken_ne_ident t s)
  · split at h
    · next hp => exact absurd (h ▸ hp) (pinToken_ne_ident t s)
    · split at h
      · cases h
      · split at h
        · split at h <;> cases h
        · split at h
          · next shape => exact ⟨(Token.ident.inj h).symm, shape⟩
          · cases h

theorem isIdent_iff {s : Ident} : isIdent s = true ↔ lex s = .ident s := beq_iff_eq

theorem isWord_of_isIdent {s : Ident} (h : isIdent s = true) : IsWord s := by
  obtain ⟨-, shape⟩ := lex_eq_ident (isIdent_iff.1 h)
  cases s with
  | nil => cases shape
  | cons b s =>
    simp only [identShape, Bool.and_eq_true, List.all_eq_true] at shape
    obtain ⟨start, later⟩ := shape
    have bytes : ∀ c ∈ b :: s, isIdentByte c = true :=
      List.forall_mem_cons.2 ⟨by rw [isIdentByte, start, Bool.true_or], later⟩
    exact ⟨List.cons_ne_nil b s, fun c hc => isWordByte_of_identByte (bytes c hc)⟩

/-! ### Operands: each is a word, and is read back in a slot that can hold it (R314, R319) -/

section

variable {keys : KeyNames} {slot : Slot} {o : Operand}

theorem isWord_operandText (h : slot.admits keys o = true) : IsWord (operandText o) := by
  cases o with
  | reg r => exact isWord_regText r
  | pin p => exact isWord_pinText p
  | num v => exact isWord_numText v
  | mode m => exact isWord_spelling m
  | newName s => exact isWord_of_isIdent h
  | name s =>
    simp only [Slot.admits, Bool.and_eq_true] at h
    exact isWord_of_isIdent h.1.1
  | key s =>
    simp only [Slot.admits, Bool.and_eq_true] at h
    exact isWord_of_isIdent h.1

theorem isIdent_of_admits_name {s : Ident} (h : slot.admits keys (.name s) = true) : isIdent s = true := by
  simp only [Slot.admits, Bool.and_eq_true] at h
  exact h.1.1

theorem valOperand_text {a : ValOp} (h : slot.admits keys (.ofValOp a) = true) :
    valOperand ⟨keys, none⟩ (lex (operandText (.ofValOp a))) = .ok (.ofValOp a) := by
  cases a with
  | reg r => simp only [Operand.ofValOp, operandText, lex_regText, valOperand]
  | num v => rcases lex_numText v with hv | hv <;> simp only [Operand.ofValOp, operandText, hv, valOperand]
  | name s =>
    simp only [Operand.ofValOp, operandText, isIdent_iff.1 (isIdent_of_admits_name h), valOperand, checkName]

/-- Only a name is written as an identifier. -/
theorem eq_name_of_lex_text {a : ValOp} {s : Ident} (h : lex (operandText (.ofValOp a)) = .ident s) : a = .name s := by
  cases a with
  | reg r => exact nomatch (lex_regText r).symm.trans h
  | num v => rcases lex_numText v with hv | hv <;> exact nomatch hv.symm.trans h
  | name n => rw [(lex_eq_ident h).1]; rfl

theorem keyOperand_eq_valOperand {ctx : Ctx} {names : List Ident} {t : Token}
    (h : ∀ s, t = .ident s → names.contains s = false) : keyOperand ctx names t = valOperand ctx t := by
  cases t with
  | ident s => simp only [keyOperand, h s rfl, Bool.false_eq_true, if_false]
  | reg | pin | num | const | malformed => rfl

theorem modeOperand_eq_valOperand {ctx : Ctx} {t : Token} (h : ∀ s, t = .ident s → batchModeNamed s = none) :
    modeOperand ctx t = valOperand ctx t := by
  cases t with
  | ident s => simp only [modeOperand, h s rfl]
  | reg | pin | num | const | malformed => rfl

theorem keyOperand_text {k : KeyOp} (h : slot.admits keys (.ofKeyOp k) = true) :
    keyOperand ⟨keys, none⟩ (keys.ofSlot slot) (lex (operandText (.ofKeyOp k))) = .ok (.ofKeyOp k) := by
  cases k with
  | key s =>
    simp only [Operand.ofKeyOp, Slot.admits, Bool.and_eq_true] at h
    obtain ⟨ident, isKey⟩ := h
    simp only [Operand.ofKeyOp, operandText, isIdent_iff.1 ident, keyOperand, isKey, if_true]
  | val a =>
    refine (keyOperand_eq_valOperand fun s hs => ?_).trans (valOperand_text h)
    obtain rfl := eq_name_of_lex_text hs
    simp only [Operand.ofKeyOp, Operand.ofValOp, Slot.admits, Bool.and_eq_true, Bool.not_eq_true'] at h
    exact h.1.2

theorem modeOperand_text {m : ModeOp} (h : Slot.bm.admits keys (.ofModeOp m) = true) :
    modeOperand ⟨keys, none⟩ (lex (operandText (.ofModeOp m))) = .ok (.ofModeOp m) := by
  cases m with
  | mode m => cases m <;> rfl
  | val a =>
    refine (modeOperand_eq_valOperand fun s hs => ?_).trans (valOperand_text h)
    obtain rfl := eq_name_of_lex_text hs
    simp only [Operand.ofModeOp, Operand.ofValOp, Slot.admits, Bool.and_eq_true] at h
    simpa using h.2

/-- What the encoder writes for an operand is read back in its slot. -/
theorem slotOperand_text (fits : slot.takes o) (h : slot.admits keys o = true) :
    slotOperand ⟨keys, none⟩ slot (lex (operandText o)) = .ok o := by
  cases slot with
  | val => obtain ⟨a, rfl⟩ := fits; exact valOperand_text h
  | lt | slt | rm => obtain ⟨k, rfl⟩ := fits; exact keyOperand_text h
  | bm => obtain ⟨m, rfl⟩ := fits; exact modeOperand_text h
  | reg =>
    obtain ⟨r | s, rfl⟩ := fits
    · simp only [Operand.ofRegOp, operandText, lex_regText, slotOperand]
    · simp only [Operand.ofRegOp, operandText, isIdent_iff.1 (isIdent_of_admits_name h), slotOperand, checkName]
  | pin =>
    obtain ⟨p | s, rfl⟩ := fits
    · simp only [Operand.ofPinOp, operandText, lex_pinText h, slotOperand]
    · simp only [Operand.ofPinOp, operandText, isIdent_iff.1 (isIdent_of_admits_name h), slotOperand, checkName]
  | newName =>
    obtain ⟨s, rfl⟩ := fits
    simp only [operandText, isIdent_iff.1 h, slotOperand]
  | target =>
    obtain ⟨r | p, rfl⟩ := fits
    · simp only [Operand.ofTarget, operandText, lex_regText, slotOperand]
    · simp only [Operand.ofTarget, operandText, lex_pinText h, slotOperand]
  | num =>
    obtain ⟨v, rfl⟩ := fits
    rcases lex_numText v with hv | hv <;> simp only [operandText, hv, slotOperand]

theorem slotOperands_text {slots : List Slot} {os : List Operand}
    (h : List.Forall₂ (fun slot o => slot.takes o ∧ slot.admits keys o = true) slots os)
    {tokens : List (Nat × List Byte)} (texts : tokens.map (·.2) = os.map operandText) :
    slotOperands ⟨keys, none⟩ slots tokens = .ok os := by
  induction h generalizing tokens with
  | nil => simp only [slotOperands]
  | cons first _ ih =>
    obtain ⟨fits, ok⟩ := first
    obtain ⟨⟨col, t⟩, rest, rfl, ht, hrest⟩ := List.map_eq_cons_iff.1 texts
    obtain rfl : t = _ := ht
    simp only [slotOperands, slotOperand_text fits ok, ih hrest]

end

/-! ### The line -/

/-- Words, each with a space before it. -/
def spaced (ws : List (List Byte)) : List Byte := (ws.map (0x20#8 :: ·)).flatten

theorem spaced_cons (w : List Byte) (ws : List (List Byte)) : spaced (w :: ws) = 0x20#8 :: (w ++ spaced ws) := rfl

theorem encode_eq (i : Instr) : encode i = i.mnemonic ++ spaced (i.operands.map operandText) := by
  rw [encode, spaced, List.map_map]
  rfl

theorem endsRun_spaced (ws : List (List Byte)) : EndsRun isBlank (spaced ws) := by
  cases ws with
  | nil => exact fun _ h => nomatch h
  | cons w ws => intro b hb; cases hb; rfl

theorem IsWord.noDelim {w : List Byte} (h : IsWord w) : NoDelim isBlank w := fun b hb => by
  have := h.bytes b hb
  simp only [isWordByte, Bool.and_eq_true] at this
  simpa using this.1.1

/-- A word, and then spaced words: the words are the tokens. -/
theorem splitConsecutive_spaced {w : List Byte} {ws : List (List Byte)} (hw : IsWord w) (hws : ∀ w ∈ ws, IsWord w)
    (k : Nat) : (splitConsecutive isBlank k (w ++ spaced ws)).map (·.2) = w :: ws := by
  induction ws generalizing w k with
  | nil => rw [splitConsecutive_run hw.nonempty hw.noDelim (endsRun_spaced _)]; rfl
  | cons v ws ih =>
    obtain ⟨hv, hws⟩ := List.forall_mem_cons.1 hws
    rw [splitConsecutive_run hw.nonempty hw.noDelim (endsRun_spaced _), spaced_cons, splitConsecutive_delim rfl,
      List.map_cons, ih hv hws]

theorem forall_mem_spaced {p : Byte → Prop} (space : p 0x20#8) {ws : List (List Byte)} (h : ∀ w ∈ ws, ∀ b ∈ w, p b) :
    ∀ b ∈ spaced ws, p b := by
  induction ws with
  | nil => exact List.forall_mem_nil p
  | cons w ws ih =>
    obtain ⟨hw, hws⟩ := List.forall_mem_cons.1 h
    exact List.forall_mem_cons.2 ⟨space, List.forall_mem_append.2 ⟨hw, ih hws⟩⟩

theorem IsWord.no_comment_or_zero {w : List Byte} (h : IsWord w) : ∀ b ∈ w, b ≠ 0x23#8 ∧ b ≠ 0#8 := fun b hb => by
  have := h.bytes b hb
  simp only [isWordByte, Bool.and_eq_true, bne_iff_ne] at this
  exact ⟨this.1.2, this.2⟩

theorem isWord_mnemonic {i : Instr} (hnop : i ≠ .nop) : IsWord i.mnemonic := by
  obtain ⟨row, hrow, hmem, -⟩ := i.row?_eq_some
  have spelling := mnemonics_spelling row hmem
  rw [← Instr.mnemonic_of_row? hrow] at spelling
  exact ⟨Instr.mnemonic_ne_nil hnop, fun b hb => isWordByte_of_identByte (identByte_of_lower (spelling b hb))⟩

section

variable {keys : KeyNames} {i : Instr} (h : i.wf keys = true)

include h

theorem takes_and_admits :
    List.Forall₂ (fun slot o => slot.takes o ∧ slot.admits keys o = true) i.slots i.operands := by
  obtain ⟨hlen, takes⟩ := List.forall₂_iff_zip.1 i.takes_operands
  exact List.forall₂_iff_zip.2 ⟨hlen, fun hmem => ⟨takes hmem, List.all_eq_true.1 h _ hmem⟩⟩

theorem isWord_operandTexts : ∀ w ∈ i.operands.map operandText, IsWord w := by
  have fits := takes_and_admits h
  generalize i.slots = slots, i.operands = os at fits
  induction fits with
  | nil => exact List.forall_mem_nil _
  | cons first _ ih => exact List.forall_mem_cons.2 ⟨isWord_operandText first.2, ih⟩

variable (hnop : i ≠ .nop)

include hnop

/-- Neither a comment sign nor a zero byte stands in the line. -/
theorem encode_bytes : ∀ b ∈ encode i, b ≠ 0x23#8 ∧ b ≠ 0#8 := by
  rw [encode_eq]
  exact List.forall_mem_append.2 ⟨(isWord_mnemonic hnop).no_comment_or_zero,
    forall_mem_spaced (by decide) fun w hw => (isWord_operandTexts h w hw).no_comment_or_zero⟩

theorem stripComment_encode : stripComment (encode i) = encode i :=
  List.takeWhile_eq_self_iff.2 fun b hb => by simpa using (encode_bytes h hnop b hb).1

theorem tokenize_encode : (tokenize (encode i)).map (·.2) = i.mnemonic :: i.operands.map operandText := by
  rw [tokenize, stripComment_encode h hnop, encode_eq]
  exact splitConsecutive_spaced (isWord_mnemonic hnop) (isWord_operandTexts h) 0

/-- The tokens of an encoded line are decoded to its instruction. -/
theorem decodeTokens_texts {tokens : List (Nat × List Byte)}
    (texts : tokens.map (·.2) = i.mnemonic :: i.operands.map operandText) :
    decodeTokens ⟨keys, none⟩ tokens = .ok (.op i (tokens.tail.map (·.1))) := by
  obtain ⟨row, hrow, hmem, hbuild⟩ := i.row?_eq_some
  have fits := takes_and_admits h
  have named := Instr.mnemonic_ne_nil hnop
  rw [Instr.slots_of_row? hrow] at fits
  rw [Instr.mnemonic_of_row? hrow] at named texts
  obtain ⟨⟨col, t⟩, rest, rfl, rfl, hrest⟩ := List.map_eq_cons_iff.1 texts
  have arity : rest.length = row.slots.length := by
    rw [fits.length_eq, ← List.length_map (·.2), hrest, List.length_map]
  simp only [decodeTokens, labelName_mnemonic hmem, rowOf_mnemonic hmem named, if_pos arity,
    slotOperands_text fits hrest, hbuild, List.tail_cons]

end

/-- Settles O2: the words of the line are its tokens, and each is read back. -/
theorem decodeAfterEncode : Obligations.DecodeAfterEncode := by
  unfold Obligations.DecodeAfterEncode
  intro keys i h
  by_cases hnop : i = .nop
  · subst hnop
    rfl
  · rw [decode, decodeLine, decodeTokens_texts h hnop (tokenize_encode h hnop)]
    rfl

/-! ### Table words -/

/-- The number whose bytes, the low ones first, are those of a line. -/
def lineNumber (line : List Byte) : Nat := line.foldr (fun b n => 256 * n + b.toNat) 0

theorem lineNumber_cons (b : Byte) (line : List Byte) : lineNumber (b :: line) = 256 * lineNumber line + b.toNat := rfl

theorem bytes_lineNumber (line : List Byte) :
    ((List.range line.length).map fun i => BitVec.ofNat 8 (lineNumber line / 2 ^ (8 * i))) = line := by
  induction line with
  | nil => rfl
  | cons b line ih =>
    have low : BitVec.ofNat 8 (lineNumber (b :: line) / 2 ^ (8 * 0)) = b := by
      refine BitVec.eq_of_toNat_eq ?_
      rw [BitVec.toNat_ofNat, lineNumber_cons]
      omega
    have rest (i : Nat) : lineNumber (b :: line) / 2 ^ (8 * (i + 1)) = lineNumber line / 2 ^ (8 * i) := by
      have step : lineNumber (b :: line) / 2 ^ 8 = lineNumber line := by
        rw [lineNumber_cons]
        omega
      rw [Nat.mul_add, Nat.add_comm, Nat.pow_add, ← Nat.div_div_eq_div_mul, Nat.mul_one, step]
    rw [List.length_cons, List.range_succ_eq_map, List.map_cons, List.map_map, low]
    simp only [Function.comp_def, Nat.succ_eq_add_one, rest, ih]

/-- A line without a zero byte is all of its table word. -/
theorem wordBytes_lineNumber {line : List Byte} (h : ∀ b ∈ line, b ≠ 0#8) :
    wordBytes (8 * line.length) (lineNumber line) = line := by
  rw [wordBytes, Nat.mul_div_cancel_left _ (by decide), bytes_lineNumber]
  cases hr : line.reverse with
  | nil => rw [← List.reverse_reverse line, hr]; rfl
  | cons b rest =>
    have nonzero : b ≠ 0#8 := h b (List.mem_reverse.1 (hr ▸ List.mem_cons_self))
    rw [List.dropWhile_cons_of_neg (by simpa using nonzero), ← hr, List.reverse_reverse]

theorem encode_nonzero {keys : KeyNames} {i : Instr} (h : i.wf keys = true) : ∀ b ∈ encode i, b ≠ 0#8 := by
  by_cases hnop : i = .nop
  · subst hnop
    exact List.forall_mem_nil _
  · exact fun b hb => (encode_bytes h hnop b hb).2

/-- Settles O3: the table word holds the bytes of the line, and no padding is cut off that is not padding. -/
theorem tableWordAfterEncode : Obligations.TableWordAfterEncode := by
  unfold Obligations.TableWordAfterEncode
  intro i h
  have line : wordBytes (encodeWord i).1 (encodeWord i).2 = encode i := wordBytes_lineNumber (encode_nonzero h)
  rw [decodeTableWord, line, decodeAfterEncode _ i h]

end Sys2Proof
end

section
/-! PROOFS. What a load accepts (30_encoding.md R300 to R340): all or nothing (O5), one record for each line (O6). -/

namespace Sys2Proof.Machine

open Lexer Decoder

/-! ### What a line can decode to -/

/-- The three kinds of line that the decoder accepts (R303). -/
inductive Decodes (ctx : Ctx) : List (Nat × List Byte) → Line → Prop
  | empty : Decodes ctx [] .empty
  | label {col : Nat} {t : List Byte} {name : Ident} (named : labelName t = some name) (ident : isIdent name = true) :
      Decodes ctx [(col, t)] (.label name col)
  | op {col : Nat} {t : List Byte} {rest : List (Nat × List Byte)} {row : OpRow} {i : Instr}
      (noLabel : labelName t = none) (mnemonic : rowOf t = some row) (arity : rest.length = row.slots.length)
      (operands : slotOperands ctx row.slots rest = .ok i.operands) (hrow : i.row? = some row) :
      Decodes ctx ((col, t) :: rest) (.op i (rest.map (·.1)))

theorem decodes_of_decodeTokens {ctx : Ctx} {tokens : List (Nat × List Byte)} {line : Line}
    (h : decodeTokens ctx tokens = .ok line) : Decodes ctx tokens line := by
  cases tokens with
  | nil => cases h; exact .empty
  | cons token rest =>
    obtain ⟨col, t⟩ := token
    cases named : labelName t with
    | some name =>
      simp only [decodeTokens, named] at h
      split at h
      · next ident =>
        cases rest with
        | nil => cases h; exact .label named ident
        | cons => cases h
      · cases h
    | none =>
      cases mnemonic : rowOf t with
      | none => simp only [decodeTokens, named, mnemonic] at h; cases h
      | some row =>
        simp only [decodeTokens, named, mnemonic] at h
        split at h
        · next arity =>
          split at h
          · cases h
          · next ops operands =>
            split at h
            · next i build =>
              cases h
              obtain ⟨hrow, rfl, -⟩ := Instr.of_build (rowOf_eq_some mnemonic).1 build
              exact .op named mnemonic arity operands hrow
            · cases h
        · cases h

/-- The columns of a decoded line's record are those of its operand tokens. -/
theorem Decodes.recordOf_cols {ctx : Ctx} {tokens : List (Nat × List Byte)} {line : Line} (h : Decodes ctx tokens line)
    (i : Nat) : (recordOf i line).cols = tokens.tail.map (·.1) := by
  cases h <;> rfl

/-! ### What a load accepts -/

/-- The entry of the label table that a line makes (R305). -/
def labelsOf (i : Nat) : Line → LabelTable
  | .label name _ => [(name, i)]
  | _ => []

/-- Lines accepted from line `i` on, with their records and labels: each decodes, and binds no name against an earlier
line (R305, R333). -/
inductive Loads (ctx : Ctx) :
    Nat → List (Ident × Category) → List (List (Nat × List Byte)) → List Record → LabelTable → Prop
  | nil {i : Nat} {earlier : List (Ident × Category)} : Loads ctx i earlier [] [] []
  | cons {i : Nat} {earlier : List (Ident × Category)} {tokens : List (Nat × List Byte)}
      {rest : List (List (Nat × List Byte))} {line : Line} {records : List Record} {labels : LabelTable}
      (decoded : decodeTokens ctx tokens = .ok line)
      (noClash : ∀ b, bindingOf tokens = some b → bindingError earlier b = none)
      (later : Loads ctx (i + 1) (earlier ++ categories [tokens]) rest records labels) :
      Loads ctx i earlier (tokens :: rest) (recordOf i line :: records) (labelsOf i line ++ labels)

section

variable {ctx : Ctx} {i : Nat} {earlier : List (Ident × Category)} {lines : List (List (Nat × List Byte))}
  {records : List Record} {labels : LabelTable}

theorem noClash_of_loadLine {tokens : List (Nat × List Byte)} {line : Line}
    (h : loadLine ctx earlier tokens = .ok line) : ∀ b, bindingOf tokens = some b → bindingError earlier b = none := by
  intro b hb
  simp only [loadLine, decodeTokens_of_loadLine h, hb, Option.bind_some] at h
  split at h
  · cases h
  · next noClash => exact noClash

theorem loads_of_loadLines (h : loadLines ctx i earlier lines = .ok (records, labels)) :
    Loads ctx i earlier lines records labels := by
  induction lines generalizing i earlier records labels with
  | nil => cases h; exact .nil
  | cons tokens rest ih =>
    simp only [loadLines] at h
    split at h
    · cases h
    · next line hline =>
      split at h
      · cases h
      · next records' labels' hlater =>
        have accepted :
            Loads ctx i earlier (tokens :: rest) (recordOf i line :: records') (labelsOf i line ++ labels') :=
          .cons (decodeTokens_of_loadLine hline) (noClash_of_loadLine hline) (ih hlater)
        cases line <;> cases h <;> exact accepted

theorem Loads.length_eq (h : Loads ctx i earlier lines records labels) : records.length = lines.length := by
  induction h with
  | nil => rfl
  | cons _ _ _ ih => rw [List.length_cons, List.length_cons, ih]

theorem Loads.record (h : Loads ctx i earlier lines records labels) {k : Nat} {r : Record} (hr : records[k]? = some r) :
    ∃ tokens line, lines[k]? = some tokens ∧ decodeTokens ctx tokens = .ok line ∧ r = recordOf (i + k) line := by
  induction h generalizing k with
  | nil => cases hr
  | @cons i _ tokens _ line _ _ decoded _ _ ih =>
    cases k with
    | zero => exact ⟨tokens, line, rfl, decoded, (Option.some.inj hr).symm⟩
    | succ k =>
      obtain ⟨tokens', line', hk, decoded', rfl⟩ := ih hr
      exact ⟨tokens', line', hk, decoded', by rw [Nat.add_right_comm, Nat.add_assoc]⟩

/-! ### The label table -/

theorem mem_labelsOf {line : Line} {n : Ident} {m : Nat} :
    (n, m) ∈ labelsOf i line ↔ m = i ∧ ∃ col, line = .label n col := by
  cases line <;> simp [labelsOf, and_comm, eq_comm]

theorem Loads.mem_labels (h : Loads ctx i earlier lines records labels) {n : Ident} {m : Nat} :
    (n, m) ∈ labels ↔
      ∃ k tokens col, m = i + k ∧ lines[k]? = some tokens ∧ decodeTokens ctx tokens = .ok (.label n col) := by
  induction h with
  | nil => simp
  | @cons i _ tokens _ line _ _ decoded _ _ ih =>
    rw [List.mem_append, mem_labelsOf, ih]
    constructor
    · rintro (⟨rfl, col, rfl⟩ | ⟨k, tokens', col, rfl, hk, hlabel⟩)
      · exact ⟨0, tokens, col, rfl, rfl, decoded⟩
      · exact ⟨k + 1, tokens', col, by omega, hk, hlabel⟩
    · rintro ⟨_ | k, tokens', col, rfl, hk, hlabel⟩
      · obtain rfl := Option.some.inj hk
        exact .inl ⟨rfl, col, Except.ok.inj (decoded.symm.trans hlabel)⟩
      · exact .inr ⟨k, tokens', col, by omega, hk, hlabel⟩

/-- A label line binds its name as a label. -/
theorem bindingOf_of_label {tokens : List (Nat × List Byte)} {n : Ident} {col : Nat}
    (h : decodeTokens ctx tokens = .ok (.label n col)) : bindingOf tokens = some ⟨n, col, some .label⟩ := by
  cases decodes_of_decodeTokens h with
  | label named ident => simp only [bindingOf, named, ident, if_true]

theorem categories_cons (tokens : List (Nat × List Byte)) (rest : List (List (Nat × List Byte))) :
    categories (tokens :: rest) = categories [tokens] ++ categories rest := by
  simp only [categories]
  split <;> rfl

theorem categories_of_bindingOf {tokens : List (Nat × List Byte)} {n : Ident} {col : Nat} {c : Category}
    (h : bindingOf tokens = some ⟨n, col, some c⟩) : categories [tokens] = [(n, c)] := by
  simp only [categories, h]

/-- No label repeats a name that an earlier line binds. -/
theorem unbound_of_label_noClash {n : Ident} {col : Nat} (h : bindingError earlier ⟨n, col, some .label⟩ = none) :
    earlier.lookup n = none := by
  unfold bindingError at h
  split at h
  · assumption
  · dsimp only at h
    split at h <;> cases h

theorem Loads.unbound_of_mem_labels (h : Loads ctx i earlier lines records labels) :
    ∀ entry ∈ labels, earlier.lookup entry.1 = none := by
  induction h with
  | nil => exact List.forall_mem_nil _
  | @cons i earlier tokens _ line _ _ decoded noClash _ ih =>
    refine List.forall_mem_append.2 ⟨fun ⟨n, m⟩ hm => ?_, fun entry hm => ?_⟩
    · obtain ⟨rfl, col, rfl⟩ := mem_labelsOf.1 hm
      exact unbound_of_label_noClash (noClash _ (bindingOf_of_label decoded))
    · have := ih entry hm
      rw [List.lookup_append] at this
      exact (Option.or_eq_none_iff.1 this).1

theorem Loads.isMap_labels (h : Loads ctx i earlier lines records labels) : isMap labels := by
  induction h with
  | nil => exact List.nodup_nil
  | @cons i earlier tokens _ line _ _ decoded _ later ih =>
    cases line with
    | empty | op => exact ih
    | label n col =>
      refine List.nodup_cons.2 ⟨fun hmem => ?_, ih⟩
      obtain ⟨entry, hentry, rfl⟩ := List.mem_map.1 hmem
      have bound := later.unbound_of_mem_labels entry hentry
      rw [categories_of_bindingOf (bindingOf_of_label decoded), List.lookup_append] at bound
      simp at bound

theorem lookupIn_of_mem {α : Type} {table : List (Ident × α)} (h : isMap table) {n : Ident} {v : α}
    (hmem : (n, v) ∈ table) : lookupIn table n = some v := by
  induction table with
  | nil => cases hmem
  | cons entry rest ih =>
    obtain ⟨m, w⟩ := entry
    obtain ⟨fresh, distinct⟩ := List.nodup_cons.1 h
    rcases List.mem_cons.1 hmem with heq | hmem
    · cases heq
      rw [lookupIn, if_pos rfl]
    · have hne : m ≠ n := by
        rintro rfl
        exact fresh (List.mem_map.2 ⟨(m, v), hmem, rfl⟩)
      rw [lookupIn, if_neg hne, ih distinct hmem]

/-- Each label of an accepted program is that of one line. -/
theorem Loads.lookup_labels (h : Loads ctx i earlier lines records labels) {n : Ident} {m : Nat} :
    lookupIn labels n = some m ↔
      ∃ k tokens col, m = i + k ∧ lines[k]? = some tokens ∧ decodeTokens ctx tokens = .ok (.label n col) :=
  ⟨fun hl => h.mem_labels.1 (mem_of_lookupIn labels n m hl),
    fun hk => lookupIn_of_mem h.isMap_labels (h.mem_labels.2 hk)⟩

end

/-! ### The load -/

section

variable {p : Params} {source : List Byte} {records : List Record} {labels : LabelTable}

/-- The tokens of a program's lines. -/
def tokenLines (source : List Byte) : List (List (Nat × List Byte)) := (splitLines source).map tokenize

/-- What the decoder knows of a program: the category of each of its names. -/
def programCtx (p : Params) (source : List Byte) : Ctx := ⟨p.keyNames, some (categories (tokenLines source))⟩

/-- An accepted program is within `MAX_LINES`, and all its lines are accepted. -/
theorem loads_of_parseProgram (h : parseProgram p source = .ok (records, labels)) :
    Loads (programCtx p source) 0 [] (tokenLines source) records labels ∧
      ∀ limit, p.maxLines = some limit → (tokenLines source).length ≤ limit := by
  simp only [parseProgram] at h
  split at h
  · next hmax => exact ⟨loads_of_loadLines h, fun limit hlimit => nomatch hmax.symm.trans hlimit⟩
  · next limit hmax =>
    split at h
    · cases h
    · next prog hload =>
      split at h
      · cases h
      · next within =>
        cases h
        rw [List.take_of_length_le (Nat.le_of_not_lt within)] at hload
        refine ⟨loads_of_loadLines hload, fun limit' hlimit => ?_⟩
        obtain rfl := Option.some.inj (hmax.symm.trans hlimit)
        exact Nat.le_of_not_lt within

theorem getElem?_tokenLines {k : Nat} {tokens : List (Nat × List Byte)} :
    (tokenLines source)[k]? = some tokens ↔ ∃ line, (splitLines source)[k]? = some line ∧ tokenize line = tokens := by
  rw [tokenLines, List.getElem?_map, Option.map_eq_some_iff]

/-- A line of an accepted program decodes alike by itself. -/
theorem decodeLine_all_bound {line : List Byte} {decoded : Line}
    (h : decodeTokens (programCtx p source) (tokenize line) = .ok decoded) :
    decodeLine ⟨p.keyNames, none⟩ line = .ok decoded :=
  decodeTokens_all_bound h

/-- Settles O6: the records and labels are those of the accepted lines. -/
theorem loadedRecordsAreTheLines : Obligations.LoadedRecordsAreTheLines := by
  unfold Obligations.LoadedRecordsAreTheLines
  intro p source records labels parsed
  obtain ⟨loads, limited⟩ := loads_of_parseProgram parsed
  have hlength : (tokenLines source).length = (splitLines source).length := List.length_map _
  refine ⟨loads.length_eq.trans hlength, fun limit hmax => loads.length_eq ▸ limited limit hmax, fun k r hr => ?record,
    fun n k => ?label⟩
  case record =>
    obtain ⟨tokens, decoded, hk, hdecoded, rfl⟩ := loads.record hr
    obtain ⟨line, hline, rfl⟩ := getElem?_tokenLines.1 hk
    rw [Nat.zero_add]
    refine ⟨by cases decoded <;> rfl, line, hline, ?_, (decodes_of_decodeTokens hdecoded).recordOf_cols k⟩
    rw [decode, decodeLine_all_bound hdecoded, recordOf_instr]
    rfl
  case label =>
    rw [loads.lookup_labels]
    constructor
    · rintro ⟨k, tokens, col, rfl, hk, hlabel⟩
      obtain ⟨line, hline, rfl⟩ := getElem?_tokenLines.1 hk
      rw [Nat.zero_add]
      exact ⟨line, col, hline, decodeLine_all_bound hlabel⟩
    · rintro ⟨line, col, hline, hlabel⟩
      have hk : (tokenLines source)[k]? = some (tokenize line) := getElem?_tokenLines.2 ⟨line, hline, rfl⟩
      have hlt : k < records.length := by
        rw [loads.length_eq]
        exact (List.getElem?_eq_some_iff.1 hk).1
      obtain ⟨tokens, decoded, hk', hdecoded, -⟩ := loads.record (List.getElem?_eq_getElem hlt)
      obtain rfl := Option.some.inj (hk.symm.trans hk')
      obtain rfl := Except.ok.inj ((decodeLine_all_bound hdecoded).symm.trans hlabel)
      exact ⟨k, _, col, (Nat.zero_add k).symm, hk, hdecoded⟩

end

/-! ### The code of a refused load -/

theorem code_of_loadLines_error {ctx : Ctx} {i : Nat} {earlier : List (Ident × Category)}
    {lines : List (List (Nat × List Byte))} {e : ParseError} (h : loadLines ctx i earlier lines = .error e) :
    e.code = parseCode e.kind := by
  induction lines generalizing i earlier with
  | nil => cases h
  | cons tokens rest ih =>
    simp only [loadLines] at h
    split at h
    · cases h; rfl
    · split at h
      · next later => cases h; exact ih later
      · split at h <;> cases h

theorem code_of_parseProgram_error {p : Params} {source : List Byte} {e : ParseError}
    (h : parseProgram p source = .error e) : e.code = parseCode e.kind := by
  simp only [parseProgram] at h
  split at h
  · exact code_of_loadLines_error h
  · split at h
    · next refused => cases h; exact code_of_loadLines_error refused
    · split at h <;> cases h
      rfl

theorem State.load_of_error {s : State} {source : List Byte} {e : ParseError}
    (h : parseProgram s.params source = .error e) :
    s.load source = { s with
      program := none
      labels := []
      status := .noProgram
      crashed := false
      resume := none
      loadError := some e } := by
  simp only [State.load, h]

theorem State.load_of_ok {s : State} {source : List Byte} {records : List Record} {labels : LabelTable}
    (h : parseProgram s.params source = .ok (records, labels)) :
    s.load source = { s with program := some records, labels := labels, loadError := none }.restart := by
  simp only [State.load, h]

/-- Settles O5: the two outcomes of a load, and the code of its error. -/
theorem loadIsAllOrNothing : Obligations.LoadIsAllOrNothing := by
  unfold Obligations.LoadIsAllOrNothing
  refine fun s source => ⟨fun e refused => ?_, fun records labels => State.load_of_ok⟩
  rw [State.load_of_error refused, code_of_parseProgram_error refused]
  refine ⟨rfl, rfl, rfl, ?_⟩
  cases e.kind <;> rfl

end Sys2Proof.Machine
end

section
/-! PROOFS. The names of a program suit their slots (30_encoding.md R333; log 14), so that the machine never stops
(O58). -/

namespace Sys2Proof.Machine

open Lexer Decoder

/-! ### A name that a line uses has a category its slot accepts -/

/-- The categories of the names that a slot accepts (R333). -/
def acceptedBy : Slot → List Category
  | .reg => [.aliasToReg]
  | .pin => [.aliasToPin]
  | _ => [.aliasToReg, .constant, .label]

section

variable {keys : KeyNames} {cs : List (Ident × Category)} {n : Ident}

/-- The name's category is among the accepted ones. -/
def HasCategory (cs : List (Ident × Category)) (accepted : List Category) (n : Ident) : Prop :=
  ∃ c ∈ accepted, cs.lookup n = some c

theorem checkName_hasCategory {accepted : List Category} {s : Ident}
    (h : checkName ⟨keys, some cs⟩ accepted s = .ok (.name n)) : HasCategory cs accepted n := by
  obtain rfl := Operand.name.inj (checkName_eq_name h)
  simp only [checkName] at h
  split at h
  · cases h
  · next c hc =>
    split at h
    · next member => exact ⟨c, by simpa using member, hc⟩
    · cases h

theorem valOperand_hasCategory {t : Token} (h : valOperand ⟨keys, some cs⟩ t = .ok (.name n)) :
    HasCategory cs [.aliasToReg, .constant, .label] n := by
  cases t with
  | ident s => exact checkName_hasCategory (keys := keys) h
  | reg | pin | num | const | malformed => cases h

theorem keyOperand_hasCategory {names : List Ident} {t : Token}
    (h : keyOperand ⟨keys, some cs⟩ names t = .ok (.name n)) : HasCategory cs [.aliasToReg, .constant, .label] n := by
  cases t with
  | ident s =>
    simp only [keyOperand] at h
    split at h
    · cases h
    · exact valOperand_hasCategory h
  | reg | pin | num | const | malformed => cases h

theorem modeOperand_hasCategory {t : Token} (h : modeOperand ⟨keys, some cs⟩ t = .ok (.name n)) :
    HasCategory cs [.aliasToReg, .constant, .label] n := by
  cases t with
  | ident s =>
    simp only [modeOperand] at h
    split at h
    · cases h
    · exact valOperand_hasCategory h
  | reg | pin | num | const | malformed => cases h

theorem slotOperand_hasCategory {slot : Slot} {t : Token} (h : slotOperand ⟨keys, some cs⟩ slot t = .ok (.name n)) :
    HasCategory cs (acceptedBy slot) n := by
  cases slot with
  | val => exact valOperand_hasCategory h
  | lt | slt | rm => exact keyOperand_hasCategory h
  | bm => exact modeOperand_hasCategory h
  | reg | pin =>
    cases t with
    | ident s => exact checkName_hasCategory (keys := keys) h
    | reg | pin | num | const | malformed => cases h
  | newName | target | num => cases t <;> cases h

theorem slotOperands_cons_ok {ctx : Ctx} {slot : Slot} {slots : List Slot} {col : Nat} {t : List Byte}
    {rest : List (Nat × List Byte)} {os : List Operand}
    (h : slotOperands ctx (slot :: slots) ((col, t) :: rest) = .ok os) :
    ∃ o os', slotOperand ctx slot (lex t) = .ok o ∧ slotOperands ctx slots rest = .ok os' ∧ os = o :: os' := by
  rw [slotOperands] at h
  split at h
  · cases h
  · next o ho =>
    split at h
    · cases h
    · next os' hos => exact ⟨o, os', ho, hos, (Except.ok.inj h).symm⟩

theorem exists_token_of_slotOperands {ctx : Ctx} {slots : List Slot} {tokens : List (Nat × List Byte)}
    {os : List Operand} (h : slotOperands ctx slots tokens = .ok os) {slot : Slot} {o : Operand}
    (hmem : (slot, o) ∈ slots.zip os) : ∃ t, slotOperand ctx slot (lex t) = .ok o := by
  induction slots generalizing tokens os with
  | nil => cases hmem
  | cons first slots ih =>
    cases tokens with
    | nil => cases h; cases hmem
    | cons token rest =>
      obtain ⟨o', os', ho, hos, rfl⟩ := slotOperands_cons_ok h
      rcases List.mem_cons.1 hmem with heq | hmem
      · cases heq
        exact ⟨token.2, ho⟩
      · exact ih hos hmem

/-- A name operand of a decoded line has a category that its slot accepts. -/
theorem Decodes.hasCategory {tokens : List (Nat × List Byte)} {line : Line} (h : Decodes ⟨keys, some cs⟩ tokens line)
    {slot : Slot} (hmem : (slot, Operand.name n) ∈ line.instr.slots.zip line.instr.operands) :
    HasCategory cs (acceptedBy slot) n := by
  cases h with
  | empty | label => cases hmem
  | op _ _ _ operands hrow =>
    rw [← Instr.slots_of_row? hrow] at operands
    obtain ⟨t, ht⟩ := exists_token_of_slotOperands operands hmem
    exact slotOperand_hasCategory ht

end

/-! ### A name that a line binds has the category of the binding -/

/-- The category that a target gives its name (R333). -/
def categoryOf : Target → Category
  | .reg _ => .aliasToReg
  | .pin _ => .aliasToPin

section

variable {ctx : Ctx} {tokens : List (Nat × List Byte)} {n : Ident}

theorem eq_ident_of_slotOperand {t : Token} (h : slotOperand ctx .newName t = .ok (.newName n)) : t = .ident n := by
  cases t with
  | ident => cases h; rfl
  | reg | pin | num | const | malformed => cases h

/-- The operand tokens of an instruction that binds a name: the name itself, and one more. -/
theorem two_operands {slot : Slot} {rest : List (Nat × List Byte)} {o : Operand}
    (h : slotOperands ctx [.newName, slot] rest = .ok [.newName n, o]) (arity : rest.length = 2) :
    ∃ ncol col t, rest = [(ncol, n), (col, t)] ∧ isIdent n = true ∧ slotOperand ctx slot (lex t) = .ok o := by
  obtain ⟨⟨ncol, name⟩, ⟨col, t⟩, rfl⟩ := List.length_eq_two.1 arity
  obtain ⟨_, _, hname, hrest, heq⟩ := slotOperands_cons_ok h
  cases heq
  obtain ⟨_, _, ho, -, heq⟩ := slotOperands_cons_ok hrest
  cases heq
  have hlex := eq_ident_of_slotOperand hname
  obtain ⟨rfl, -⟩ := lex_eq_ident hlex
  exact ⟨ncol, col, t, rfl, isIdent_iff.2 hlex, ho⟩

theorem targetCategory_of_slotOperand {t : Token} {target : Target}
    (h : slotOperand ctx .target t = .ok (.ofTarget target)) : targetCategory t = some (categoryOf target) := by
  cases t with
  | reg | pin => cases target <;> cases h; rfl
  | num | const | ident | malformed => cases h

theorem bindingOf_of_aliasOp {target : Target} {cols : List Nat}
    (h : Decodes ctx tokens (.op (.aliasOp n target) cols)) :
    ∃ col, bindingOf tokens = some ⟨n, col, some (categoryOf target)⟩ := by
  cases h with
  | @op col t rest row i noLabel mnemonic arity operands hrow =>
    rw [← Instr.slots_of_row? hrow] at operands arity
    obtain ⟨ncol, tcol, target', rfl, ident, htarget⟩ := two_operands operands arity
    have keyword : t.map toLower = (Instr.aliasOp n target).mnemonic :=
      (rowOf_eq_some mnemonic).2.symm.trans (Instr.mnemonic_of_row? hrow).symm
    refine ⟨ncol, ?_⟩
    simp only [bindingOf, noLabel, ident, keyword, targetCategory_of_slotOperand htarget, if_true]
    rfl

theorem bindingOf_of_define {v : F64} {cols : List Nat} (h : Decodes ctx tokens (.op (.define n v) cols)) :
    ∃ col, bindingOf tokens = some ⟨n, col, some .constant⟩ := by
  cases h with
  | @op col t rest row i noLabel mnemonic arity operands hrow =>
    rw [← Instr.slots_of_row? hrow] at operands arity
    obtain ⟨ncol, vcol, t', rfl, ident, -⟩ := two_operands operands arity
    have keyword : t.map toLower = (Instr.define n v).mnemonic :=
      (rowOf_eq_some mnemonic).2.symm.trans (Instr.mnemonic_of_row? hrow).symm
    refine ⟨ncol, ?_⟩
    simp only [bindingOf, noLabel, ident, keyword, if_true]
    rfl

/-- A binding that meets no clash is the first of its name, or has the category of the first. -/
theorem lookup_of_noClash {earlier : List (Ident × Category)} {col : Nat} {c : Category}
    (h : bindingError earlier ⟨n, col, some c⟩ = none) : earlier.lookup n = none ∨ earlier.lookup n = some c := by
  unfold bindingError at h
  split at h
  · next unbound => exact .inl unbound
  · next first hfirst =>
    right
    cases c with
    | label => dsimp only at h; split at h <;> cases h
    | constant => cases h
    | aliasToReg | aliasToPin =>
      dsimp only at h
      split at h
      · next heq => rw [hfirst, heq]
      · cases h

/-- Every binding of an accepted program has the one category of its name. -/
theorem Loads.lookup_category {i : Nat} {earlier : List (Ident × Category)} {lines : List (List (Nat × List Byte))}
    {records : List Record} {labels : LabelTable} (h : Loads ctx i earlier lines records labels) (hmem : tokens ∈ lines)
    {col : Nat} {c : Category} (hb : bindingOf tokens = some ⟨n, col, some c⟩) :
    (earlier ++ categories lines).lookup n = some c := by
  induction h with
  | nil => cases hmem
  | cons _ noClash _ ih =>
    rw [categories_cons]
    rcases List.mem_cons.1 hmem with rfl | hmem
    · rw [categories_of_bindingOf hb, List.lookup_append]
      rcases lookup_of_noClash (noClash _ hb) with unbound | same
      · simp [unbound]
      · simp [same]
    · rw [← List.append_assoc]
      exact ih hmem

end

/-! ### An accepted program -/

section

variable {ctx : Ctx} {lines : List (List (Nat × List Byte))} {records : List Record} {labels : LabelTable} {n : Ident}

theorem Loads.record_of_mem (h : Loads ctx 0 [] lines records labels) {r : Record} (hr : r ∈ records) :
    ∃ tokens ∈ lines, ∃ line, Decodes ctx tokens line ∧ r.instr = line.instr := by
  obtain ⟨k, hk⟩ := List.mem_iff_getElem?.1 hr
  obtain ⟨tokens, line, htokens, decoded, rfl⟩ := h.record hk
  exact ⟨tokens, List.mem_of_getElem? htokens, line, decodes_of_decodeTokens decoded, recordOf_instr _ line⟩

theorem eq_op_of_instr {line : Line} {i : Instr} (h : i = line.instr) (hi : i ≠ .nop) : ∃ cols, line = .op i cols := by
  cases line with
  | empty | label => exact absurd h hi
  | op j cols => exact ⟨cols, by rw [h]; rfl⟩

theorem Loads.category_of_alias (h : Loads ctx 0 [] lines records labels) {t : Target} (hb : bindsAlias records n t) :
    (categories lines).lookup n = some (categoryOf t) := by
  obtain ⟨r, hr, hi⟩ := hb
  obtain ⟨tokens, hmem, line, decoded, hinstr⟩ := h.record_of_mem hr
  obtain ⟨cols, rfl⟩ := eq_op_of_instr (hi.symm.trans hinstr) (by simp)
  obtain ⟨col, hbinding⟩ := bindingOf_of_aliasOp decoded
  exact h.lookup_category hmem hbinding

theorem Loads.category_of_constant (h : Loads ctx 0 [] lines records labels) {v : F64}
    (hb : bindsConstant records n v) : (categories lines).lookup n = some .constant := by
  obtain ⟨r, hr, hi⟩ := hb
  obtain ⟨tokens, hmem, line, decoded, hinstr⟩ := h.record_of_mem hr
  obtain ⟨cols, rfl⟩ := eq_op_of_instr (hi.symm.trans hinstr) (by simp)
  obtain ⟨col, hbinding⟩ := bindingOf_of_define decoded
  exact h.lookup_category hmem hbinding

theorem Loads.category_of_label (h : Loads ctx 0 [] lines records labels) {m : Nat} (hl : lookupIn labels n = some m) :
    (categories lines).lookup n = some .label := by
  obtain ⟨k, tokens, col, -, hk, decoded⟩ := h.lookup_labels.1 hl
  exact h.lookup_category (List.mem_of_getElem? hk) (bindingOf_of_label decoded)

/-- A name whose category a slot accepts suits the slot. -/
theorem Loads.nameFits (h : Loads ctx 0 [] lines records labels) {slot : Slot}
    (accepted : HasCategory (categories lines) (acceptedBy slot) n) : nameFits records labels slot n := by
  obtain ⟨c, hc, hlookup⟩ := accepted
  have target {t : Target} (hb : bindsAlias records n t) : categoryOf t = c :=
    Option.some.inj ((h.category_of_alias hb).symm.trans hlookup)
  have constant {v : F64} (hb : bindsConstant records n v) : .constant = c :=
    Option.some.inj ((h.category_of_constant hb).symm.trans hlookup)
  have label {m : Nat} (hl : lookupIn labels n = some m) : .label = c :=
    Option.some.inj ((h.category_of_label hl).symm.trans hlookup)
  cases slot with
  | reg | pin =>
    obtain rfl := List.mem_singleton.1 hc
    refine ⟨fun t hb => ?_, fun v hb => (nomatch constant hb),
      Option.eq_none_iff_forall_ne_some.2 fun m hl => (nomatch label hl)⟩
    have category := target hb
    cases t <;> cases category
    rfl
  | val | lt | slt | rm | bm | newName | target | num =>
    intro t hb
    cases t with
    | reg => rfl
    | pin =>
      obtain rfl : .aliasToPin = c := target hb
      exact absurd hc (by decide)

end

theorem namesFit_of_parseProgram {p : Params} {source : List Byte} {records : List Record} {labels : LabelTable}
    (h : parseProgram p source = .ok (records, labels)) : ∀ r ∈ records, namesFit records labels r.instr := by
  intro r hr slot n hmem
  obtain ⟨loads, -⟩ := loads_of_parseProgram h
  obtain ⟨tokens, -, line, decoded, hinstr⟩ := loads.record_of_mem hr
  rw [hinstr] at hmem
  exact loads.nameFits (decoded.hasCategory hmem)

/-! ### Names that suit their slots never stop an instruction -/

section

variable {s : State} {n : Ident}

theorem binding_cases {b : Binding} (h : s.binding n = .ok b) :
    (∃ t, b = .target t ∧ (n, t) ∈ s.aliases) ∨ (∃ v, b = .constant v ∧ (n, v) ∈ s.defines) ∨
      ∃ l, b = .line l ∧ lookupIn s.labels n = some l := by
  unfold State.binding at h
  split at h
  · next t ht => cases h; exact .inl ⟨t, rfl, mem_of_lookupIn _ _ _ ht⟩
  · split at h
    · next v hv => cases h; exact .inr (.inl ⟨v, rfl, mem_of_lookupIn _ _ _ hv⟩)
    · split at h
      · next l hl => cases h; exact .inr (.inr ⟨l, rfl, hl⟩)
      · cases h

/-- Tables that hold only what lines bind give a name nothing that its slot does not accept. -/
theorem not_nameStops {program : List Record} (aliases : ∀ n t, (n, t) ∈ s.aliases → bindsAlias program n t)
    (defines : ∀ n v, (n, v) ∈ s.defines → bindsConstant program n v) {slot : Slot}
    (h : nameFits program s.labels slot n) : ¬ NameStops s slot n := by
  cases slot with
  | reg | pin =>
    obtain ⟨targets, constants, labels⟩ := h
    rintro ⟨b, hb, other⟩
    rcases binding_cases hb with ⟨t, rfl, hmem⟩ | ⟨v, rfl, hmem⟩ | ⟨l, rfl, hl⟩
    · have kind := targets t (aliases n t hmem)
      cases t with
      | reg | pin => first | exact other _ rfl | cases kind
    · exact constants v (defines n v hmem)
    · exact nomatch labels.symm.trans hl
  | val | lt | slt | rm | bm | newName | target | num =>
    rintro ⟨p, hp⟩
    rcases binding_cases hp with ⟨t, ht, hmem⟩ | ⟨v, hv, -⟩ | ⟨l, hl, -⟩
    · have isReg := h t (aliases n t hmem)
      cases ht
      cases isReg
    · cases hv
    · cases hl

theorem exec_ne_fault {program : List Record} (ok : s.namesOk) (installed : s.program = some program) {r : Record}
    (hr : r ∈ program) (f : Fault) : exec r.instr s ≠ .fault f := by
  intro stop
  obtain ⟨fit, aliases, defines⟩ := ok program installed
  obtain ⟨slot, n, hmem, stops⟩ := exec_fault r.instr s f stop
  exact not_nameStops aliases defines (fit r hr slot n hmem) stops

end

/-! ### Every step keeps the names suited to their slots -/

/-- What the names of a program depend on is equal. -/
structure SameNames (s t : State) : Prop where
  program : t.program = s.program
  labels : t.labels = s.labels
  aliases : t.aliases = s.aliases
  defines : t.defines = s.defines

theorem SameNames.namesOk {s t : State} (h : SameNames s t) (ok : s.namesOk) : t.namesOk := by
  unfold State.namesOk
  rw [h.program, h.labels, h.aliases, h.defines]
  exact ok

theorem elementary_namesOk : Elementary fun s t => s.namesOk → t.namesOk where
  refl _ h := h
  trans _ _ _ hst htu h := htu (hst h)
  cell s c v := SameNames.namesOk ⟨by simp, by simp, by simp, by simp⟩
  npc _ _ := SameNames.namesOk ⟨rfl, rfl, rfl, rfl⟩
  stack _ _ _ _ := SameNames.namesOk ⟨rfl, rfl, rfl, rfl⟩
  clear _ := SameNames.namesOk ⟨rfl, rfl, rfl, rfl⟩
  port _ _ _ := SameNames.namesOk ⟨rfl, rfl, rfl, rfl⟩

namespace State

variable {s : State}

/-- A line of the program may bind its name (R132). -/
theorem namesOk_bindAlias (ok : s.namesOk) {n : Ident} {t : Target}
    (line : ∀ program, s.program = some program → bindsAlias program n t) :
    ({ s with aliases := bindIn s.aliases n t } : State).namesOk := by
  intro program installed
  obtain ⟨fit, aliases, defines⟩ := ok program installed
  refine ⟨fit, fun m u hmem => ?_, defines⟩
  rcases mem_bindIn s.aliases n m t u hmem with heq | hmem
  · cases heq
    exact line program installed
  · exact aliases m u hmem

theorem namesOk_bindDefine (ok : s.namesOk) {n : Ident} {v : F64}
    (line : ∀ program, s.program = some program → bindsConstant program n v) :
    ({ s with defines := bindIn s.defines n v } : State).namesOk := by
  intro program installed
  obtain ⟨fit, aliases, defines⟩ := ok program installed
  refine ⟨fit, aliases, fun m w hmem => ?_⟩
  rcases mem_bindIn s.defines n m v w hmem with heq | hmem
  · cases heq
    exact line program installed
  · exact defines m w hmem

theorem namesOk_exec (ok : s.namesOk) {r : Record} (hr : ∀ program, s.program = some program → r ∈ program) {u : State}
    (h : exec r.instr s = .next u) : u.namesOk := by
  have hcases := exec_cases elementary_namesOk r.instr s u
    (fun _ => SameNames.namesOk ⟨rfl, rfl, rfl, rfl⟩) (fun _ _ _ => SameNames.namesOk ⟨rfl, rfl, rfl, rfl⟩)
    (fun n t hi ok => namesOk_bindAlias ok fun program installed => ⟨r, hr program installed, hi⟩)
    (fun n v hi ok => namesOk_bindDefine ok fun program installed => ⟨r, hr program installed, hi⟩) h
  rcases hcases with completed | ⟨e, t, -, rfl⟩
  · exact completed ok
  · exact SameNames.namesOk (s := s) ⟨rfl, rfl, rfl, rfl⟩ ok

theorem namesOk_restart (ok : s.namesOk) : s.restart.namesOk := by
  intro program installed
  obtain ⟨fit, -, -⟩ := ok program installed
  exact ⟨fit, fun _ _ h => (nomatch h), fun _ _ h => (nomatch h)⟩

/-- A load installs only names that suit their slots. -/
theorem namesOk_load (source : List Byte) : (s.load source).namesOk := by
  intro program installed
  cases parsed : parseProgram s.params source with
  | error e => rw [load_of_error parsed] at installed; cases installed
  | ok prog =>
    obtain ⟨records, labels⟩ := prog
    rw [load_of_ok parsed] at installed ⊢
    cases installed
    exact ⟨namesFit_of_parseProgram parsed, fun _ _ h => (nomatch h), fun _ _ h => (nomatch h)⟩

theorem namesOk_restore (ok : s.namesOk) (snap : Snapshot) : (s.restore snap).namesOk := by
  unfold State.restore
  split
  · exact ok
  · next program installed =>
    split
    · next fits =>
      simp only [Snapshot.fits, Bool.and_eq_true, List.all_eq_true, List.any_eq_true, beq_iff_eq] at fits
      obtain ⟨aliases, defines⟩ := fits
      obtain ⟨fit, -, -⟩ := ok program installed
      intro program' installed'
      obtain rfl := Option.some.inj (installed.symm.trans installed')
      refine ⟨fit, fun n t hmem => ?_, fun n v hmem => ?_⟩
      · rcases mem_bindAll snap.aliases [] n t hmem with hmem | hmem
        · exact aliases _ hmem
        · cases hmem
      · rcases mem_bindAll snap.defines [] n v hmem with hmem | hmem
        · exact defines _ hmem
        · cases hmem
    · exact ok

theorem sameNames_runTick (now : F64) : SameNames s (s.runTick now) := by
  have started : SameNames s (s.startTick now) := ⟨rfl, rfl, rfl, rfl⟩
  have same : SameNames s s := ⟨rfl, rfl, rfl, rfl⟩
  unfold State.runTick
  split
  · exact same
  · exact same
  · split
    · exact started
    · exact same
  · exact started
  · exact started

theorem sameNames_housingWrite (addr v : F64) : SameNames s (s.housingWrite addr v) := by
  unfold State.housingWrite
  repeat' split
  all_goals exact ⟨rfl, rfl, rfl, rfl⟩

theorem sameNames_housingClear : SameNames s s.housingClear := by
  unfold State.housingClear
  split <;> exact ⟨rfl, rfl, rfl, rfl⟩

theorem namesOk_command (ok : s.namesOk) (c : Command) : (s.command c).namesOk := by
  cases c with
  | runTick now => exact (sameNames_runTick now).namesOk ok
  | reset => exact namesOk_restart ok
  | load source => exact namesOk_load source
  | bind pin handle => exact SameNames.namesOk ⟨rfl, rfl, rfl, rfl⟩ ok
  | restore snap => exact namesOk_restore ok snap
  | housingWrite addr v => exact (sameNames_housingWrite addr v).namesOk ok
  | housingClear => exact sameNames_housingClear.namesOk ok

theorem mem_of_fetch {r : Record} (h : s.fetch = some r) {program : List Record}
    (installed : s.program = some program) : r ∈ program :=
  List.mem_of_getElem? ((fetch_of_program installed).symm.trans h)

theorem exists_program_of_fetch {r : Record} (h : s.fetch = some r) : ∃ program, s.program = some program := by
  unfold fetch at h
  split at h
  · next program installed => exact ⟨program, installed⟩
  · cases h

theorem sameNames_fetchOutside : SameNames s s.fetchOutside := by
  unfold State.fetchOutside
  split <;> exact ⟨rfl, rfl, rfl, rfl⟩

end State

theorem StepsTo.namesOk {s t : State} (ok : s.namesOk) (h : StepsTo s t) : t.namesOk := by
  cases h with
  | softStop => exact SameNames.namesOk ⟨rfl, rfl, rfl, rfl⟩ ok
  | outside => exact State.sameNames_fetchOutside.namesOk ok
  | line _ _ r u fetched executed =>
    have begun : s.begin.namesOk := SameNames.namesOk (s := s) ⟨rfl, rfl, rfl, rfl⟩ ok
    have done : u.namesOk := State.namesOk_exec begun (fun _ => State.mem_of_fetch fetched) executed
    exact SameNames.namesOk ⟨u.sequence_program, u.sequence_labels, u.sequence_aliases, u.sequence_defines⟩ done
  | idle => exact ok
  | command _ c rest =>
    exact State.namesOk_command (s := { s with commands := rest }) (SameNames.namesOk ⟨rfl, rfl, rfl, rfl⟩ ok) c

/-- A step stops only where the instruction at the program counter does. -/
theorem exec_of_step_fault {s : State} {f : Fault} (h : Sys2Proof.Machine.step s = .fault f) :
    ∃ r, s.fetch = some r ∧ exec r.instr s.begin = .fault f := by
  cases tick : s.inTick with
  | false =>
    cases next : s.commands with
    | nil => exact nomatch (step_of_no_command tick next).symm.trans h
    | cons c rest => exact nomatch (step_of_command tick next).symm.trans h
  | true =>
    by_cases spent : s.ic = s.params.tickBudget
    · exact nomatch (step_of_budget_spent tick spent).symm.trans h
    · cases fetched : s.fetch with
      | none => exact nomatch (step_of_no_line tick spent fetched).symm.trans h
      | some r =>
        refine ⟨r, rfl, ?_⟩
        cases executed : exec r.instr s.begin with
        | next u => exact nomatch (step_of_next tick spent fetched executed).symm.trans h
        | fault g => exact (step_of_fault tick spent fetched executed).symm.trans h
        | refused x => exact absurd executed (exec_ne_refused _ _ x)

/-- Settles O58: an instruction stops only at a name that does not suit its slot, and no step lets one in. -/
theorem loadedNamesNeverStopTheMachine : Obligations.LoadedNamesNeverStopTheMachine := by
  unfold Obligations.LoadedNamesNeverStopTheMachine
  refine fun s ok => ⟨fun f stop => ?_, fun t hst => (stepsTo_of_step hst).namesOk ok⟩
  obtain ⟨r, fetched, executed⟩ := exec_of_step_fault stop
  obtain ⟨program, installed⟩ := State.exists_program_of_fetch fetched
  have begun : s.begin.namesOk := SameNames.namesOk (s := s) ⟨rfl, rfl, rfl, rfl⟩ ok
  exact exec_ne_fault begun installed (State.mem_of_fetch fetched installed) f executed

end Sys2Proof.Machine
end

section
/-! PROOFS. Of the operands of an instruction, the first from the left that does not resolve decides (30_encoding.md
R328; O27). -/

namespace Sys2Proof.Machine

/-- A slot that is not resolved at run time never fails and leaves the device port alone. -/
theorem resolves_unresolved (s : State) (l : List (Slot × Operand)) {slot : Slot}
    (h : slot = .newName ∨ slot = .target ∨ slot = .num) (o : Operand) {m : M Unit} (hm : Resolves s l m) :
    Resolves s ((slot, o) :: l) m := by
  intro p e q hfail
  rcases h with rfl | rfl | rfl <;> exact hm p e q hfail

/-- Every instruction but `label`, which resolves none, resolves its operands in order before it does anything else. -/
theorem exec_resolves (i : Instr) (h : ∀ d n, i ≠ .label d n) (s : State) :
    ∃ m, exec i s = perform m s ∧ Resolves s (i.slots.zip i.operands) m := by
  cases i
  case label d n => exact absurd rfl (h d n)
  case nop => exact ⟨pure (), rfl, resolves_nil _ _⟩
  case hcf => exact ⟨raise .halt, rfl, resolves_nil _ _⟩
  case yield => exact ⟨update fun t => { t with status := .yielded }, rfl, resolves_nil _ _⟩
  case aliasOp n t =>
    exact ⟨update fun u => { u with aliases := bindIn u.aliases n t }, rfl,
      resolves_unresolved _ _ (by simp) _ (resolves_unresolved _ _ (by simp) _ (resolves_nil _ _))⟩
  case define n v =>
    exact ⟨update fun u =>
      { u with defines := if (lookupIn u.defines n).isNone then bindIn u.defines n v else u.defines }, rfl,
      resolves_unresolved _ _ (by simp) _ (resolves_unresolved _ _ (by simp) _ (resolves_nil _ _))⟩
  case abs | acos | asin | atan | ceil | cos | exp | floor | log | move | not | round | seqz | sgez | sgtz | sin |
    slez | sltz | snan | snanz | snez | sqrt | tan | trunc =>
    exact ⟨_, rfl, resolves_dest _ _ _ _ fun _ => resolves_value _ _ _ _ fun _ => resolves_nil _ _⟩
  case add | and | atan2 | div | getd | max | min | mod | mul | nor | or | sapz | seq | sge | sgt | sla | sle | sll |
    slt | snaz | sne | sra | srl | sub | xor =>
    exact ⟨_, rfl, resolves_dest _ _ _ _ fun _ => resolves_value _ _ _ _ fun _ => resolves_value _ _ _ _ fun _ =>
      resolves_nil _ _⟩
  case bap | bapal | bna | bnaal | brap | brna =>
    exact ⟨_, rfl, resolves_value _ _ _ _ fun _ => resolves_value _ _ _ _ fun _ => resolves_value _ _ _ _ fun _ =>
      resolves_value _ _ _ _ fun _ => resolves_nil _ _⟩
  case bapz | bapzal | beq | beqal | bge | bgeal | bgt | bgtal | ble | bleal | blt | bltal | bnaz | bnazal | bne |
    bneal | brapz | breq | brge | brgt | brle | brlt | brnaz | brne | putd =>
    exact ⟨_, rfl, resolves_value _ _ _ _ fun _ => resolves_value _ _ _ _ fun _ => resolves_value _ _ _ _ fun _ =>
      resolves_nil _ _⟩
  case bdns | bdnsal | bdse | bdseal | brdns | brdse =>
    exact ⟨_, rfl, resolves_pin _ _ _ _ fun _ => resolves_value _ _ _ _ fun _ => resolves_nil _ _⟩
  case beqz | beqzal | bgez | bgezal | bgtz | bgtzal | blez | blezal | bltz | bltzal | bnan | bnez | bnezal | breqz |
    brgez | brgtz | brlez | brltz | brnan | brnez | poke =>
    exact ⟨_, rfl, resolves_value _ _ _ _ fun _ => resolves_value _ _ _ _ fun _ => resolves_nil _ _⟩
  case clr =>
    exact ⟨_, rfl, resolves_pin _ _ _ _ fun _ => resolves_nil _ _⟩
  case clrd | j | jal | jr | push | sleep =>
    exact ⟨_, rfl, resolves_value _ _ _ _ fun _ => resolves_nil _ _⟩
  case get =>
    exact ⟨_, rfl, resolves_dest _ _ _ _ fun _ => resolves_pin _ _ _ _ fun _ => resolves_value _ _ _ _ fun _ =>
      resolves_nil _ _⟩
  case l =>
    exact ⟨_, rfl, resolves_dest _ _ _ _ fun _ => resolves_pin _ _ _ _ fun _ => resolves_key _ _ .lt (by simp) _ _
      fun _ => resolves_nil _ _⟩
  case lb =>
    exact ⟨_, rfl, resolves_dest _ _ _ _ fun _ => resolves_value _ _ _ _ fun _ => resolves_key _ _ .lt (by simp) _ _
      fun _ => resolves_mode _ _ _ _ fun _ => resolves_nil _ _⟩
  case lbn =>
    exact ⟨_, rfl, resolves_dest _ _ _ _ fun _ => resolves_value _ _ _ _ fun _ => resolves_value _ _ _ _ fun _ =>
      resolves_key _ _ .lt (by simp) _ _ fun _ => resolves_mode _ _ _ _ fun _ => resolves_nil _ _⟩
  case lbns =>
    exact ⟨_, rfl, resolves_dest _ _ _ _ fun _ => resolves_value _ _ _ _ fun _ => resolves_value _ _ _ _ fun _ =>
      resolves_value _ _ _ _ fun _ => resolves_key _ _ .slt (by simp) _ _ fun _ => resolves_mode _ _ _ _ fun _ =>
      resolves_nil _ _⟩
  case lbs =>
    exact ⟨_, rfl, resolves_dest _ _ _ _ fun _ => resolves_value _ _ _ _ fun _ => resolves_value _ _ _ _ fun _ =>
      resolves_key _ _ .slt (by simp) _ _ fun _ => resolves_mode _ _ _ _ fun _ => resolves_nil _ _⟩
  case ld =>
    exact ⟨_, rfl, resolves_dest _ _ _ _ fun _ => resolves_value _ _ _ _ fun _ => resolves_key _ _ .lt (by simp) _ _
      fun _ => resolves_nil _ _⟩
  case lr =>
    exact ⟨_, rfl, resolves_dest _ _ _ _ fun _ => resolves_pin _ _ _ _ fun _ => resolves_key _ _ .rm (by simp) _ _
      fun _ => resolves_value _ _ _ _ fun _ => resolves_nil _ _⟩
  case ls =>
    exact ⟨_, rfl, resolves_dest _ _ _ _ fun _ => resolves_pin _ _ _ _ fun _ => resolves_value _ _ _ _ fun _ =>
      resolves_key _ _ .slt (by simp) _ _ fun _ => resolves_nil _ _⟩
  case peek | pop | rand =>
    exact ⟨_, rfl, resolves_dest _ _ _ _ fun _ => resolves_nil _ _⟩
  case put =>
    exact ⟨_, rfl, resolves_pin _ _ _ _ fun _ => resolves_value _ _ _ _ fun _ => resolves_value _ _ _ _ fun _ =>
      resolves_nil _ _⟩
  case s =>
    exact ⟨_, rfl, resolves_pin _ _ _ _ fun _ => resolves_key _ _ .lt (by simp) _ _ fun _ => resolves_value _ _ _ _
      fun _ => resolves_nil _ _⟩
  case sap | select | sna =>
    exact ⟨_, rfl, resolves_dest _ _ _ _ fun _ => resolves_value _ _ _ _ fun _ => resolves_value _ _ _ _ fun _ =>
      resolves_value _ _ _ _ fun _ => resolves_nil _ _⟩
  case sb | sd =>
    exact ⟨_, rfl, resolves_value _ _ _ _ fun _ => resolves_key _ _ .lt (by simp) _ _ fun _ => resolves_value _ _ _ _
      fun _ => resolves_nil _ _⟩
  case sbn =>
    exact ⟨_, rfl, resolves_value _ _ _ _ fun _ => resolves_value _ _ _ _ fun _ => resolves_key _ _ .lt (by simp) _ _
      fun _ => resolves_value _ _ _ _ fun _ => resolves_nil _ _⟩
  case sbs =>
    exact ⟨_, rfl, resolves_value _ _ _ _ fun _ => resolves_value _ _ _ _ fun _ => resolves_key _ _ .slt (by simp) _
      _ fun _ => resolves_value _ _ _ _ fun _ => resolves_nil _ _⟩
  case sdns | sdse =>
    exact ⟨_, rfl, resolves_dest _ _ _ _ fun _ => resolves_pin _ _ _ _ fun _ => resolves_nil _ _⟩
  case ss =>
    exact ⟨_, rfl, resolves_pin _ _ _ _ fun _ => resolves_value _ _ _ _ fun _ => resolves_key _ _ .slt (by simp) _ _
      fun _ => resolves_value _ _ _ _ fun _ => resolves_nil _ _⟩

/-- Settles O27: the computation of the instruction resolves its operands in order. -/
theorem firstOperandErrorDecides : Obligations.FirstOperandErrorDecides := by
  unfold Obligations.FirstOperandErrorDecides
  intro i s p h
  obtain ⟨m, hexec, hm⟩ := exec_resolves i h s
  rw [hexec]
  exact perform_resolves s _ m hm p

end Sys2Proof.Machine
end

section
/-! PROOFS. How operands name registers, bindings, pins and batch modes (30_encoding.md R321 to R327; O15 to O18), and
lines written out from the encoding rules (O1). -/

namespace Sys2Proof.Machine

/-! ### Register indirection (R121, R321) -/

section

variable {v : F64}

theorem registerIndex_of_truncInt_none (h : F64.truncInt v = none) :
    registerIndex v = .error (.raised .invalidRegisterIndex) := by
  simp only [registerIndex, (toIdx_eq_error v .invalidRegisterIndex _).2 ⟨h, rfl⟩]

theorem registerIndex_of_outside {i : Int} (h : F64.truncInt v = some i) (outside : i < 0 ∨ 18 ≤ i) :
    registerIndex v = .error (.raised .invalidRegisterIndex) := by
  simp only [registerIndex, (toIdx_eq_ok v .invalidRegisterIndex i).2 h]
  exact dif_neg (by omega)

theorem registerIndex_of_register {m : Fin 18} (h : F64.truncInt v = some (m.val : Int)) : registerIndex v = .ok m := by
  have hm := m.isLt
  simp only [registerIndex, (toIdx_eq_ok v .invalidRegisterIndex m.val).2 h]
  exact dif_pos (by omega)

end

namespace State

variable {s : State} {n : Fin 18} {k : Nat}

theorem depthOk_of_le (h : k ≤ s.params.maxIndirection) : s.depthOk k = .ok () := if_neg (Nat.not_lt.2 h)

theorem depthOk_of_lt (h : s.params.maxIndirection < k) : s.depthOk k = .error (.raised .invalidIndirectionDepth) :=
  if_pos h

theorem hops_succ_of_ok {m : Fin 18} (h : registerIndex (s.x.get n) = .ok m) : s.hops (k + 1) n = s.hops k m := by
  simp only [hops, h]

theorem hops_succ_of_error {e : Exn} (h : registerIndex (s.x.get n) = .error e) : s.hops (k + 1) n = .error e := by
  simp only [hops, h]

theorem cellOf_of_depth (h : s.params.maxIndirection < k) :
    s.cellOf (.gpr n k) = .error (.raised .invalidIndirectionDepth) := by
  simp only [cellOf, depthOk_of_lt h]

/-- Within the depth limit a register descriptor names the cell its hops lead to. -/
theorem cellOf_gpr (h : k ≤ s.params.maxIndirection) : s.cellOf (.gpr n k) = (s.hops k n).map .x := by
  simp only [cellOf, depthOk_of_le h]
  cases s.hops k n <;> rfl

theorem cellOf_of_index_error {e : Exn} (h : k + 1 ≤ s.params.maxIndirection)
    (index : registerIndex (s.x.get n) = .error e) : s.cellOf (.gpr n (k + 1)) = .error e := by
  rw [cellOf_gpr h, hops_succ_of_error index]
  rfl

theorem cellOf_of_index {m : Fin 18} (h : k + 1 ≤ s.params.maxIndirection)
    (index : registerIndex (s.x.get n) = .ok m) : s.cellOf (.gpr n (k + 1)) = s.cellOf (.gpr m k) := by
  rw [cellOf_gpr h, hops_succ_of_ok index, cellOf_gpr (Nat.le_of_succ_le h)]

end State

/-- Settles O15, hop by hop. -/
theorem registerIndirection : Obligations.RegisterIndirection := by
  unfold Obligations.RegisterIndirection
  refine fun s n k => ⟨State.cellOf_of_depth, fun hk => ⟨?zero, ?succ⟩⟩
  case zero =>
    rintro rfl
    exact State.cellOf_gpr hk
  case succ =>
    rintro j rfl
    exact ⟨fun h => State.cellOf_of_index_error hk (registerIndex_of_truncInt_none h),
      fun i h outside => State.cellOf_of_index_error hk (registerIndex_of_outside h outside),
      fun m h => State.cellOf_of_index hk (registerIndex_of_register h)⟩

/-! ### Names (R326) -/

namespace State

variable {s : State} {n : Ident}

theorem binding_of_alias {t : Target} (h : lookupIn s.aliases n = some t) : s.binding n = .ok (.target t) := by
  simp only [binding, h]

variable (noAlias : lookupIn s.aliases n = none)

include noAlias

theorem binding_of_define {v : F64} (h : lookupIn s.defines n = some v) : s.binding n = .ok (.constant v) := by
  simp only [binding, noAlias, h]

variable (noDefine : lookupIn s.defines n = none)

include noDefine

theorem binding_of_label {l : Nat} (h : lookupIn s.labels n = some l) : s.binding n = .ok (.line l) := by
  simp only [binding, noAlias, noDefine, h]

theorem binding_of_unbound (h : lookupIn s.labels n = none) : s.binding n = .error (.raised .unresolvedName) := by
  simp only [binding, noAlias, noDefine, h]

end State

/-- Settles O16: the tables are asked in order. -/
theorem nameLookupOrder : Obligations.NameLookupOrder := by
  unfold Obligations.NameLookupOrder
  exact fun s n => ⟨fun t => State.binding_of_alias, fun noAlias => ⟨fun v => State.binding_of_define noAlias,
    fun noDefine => ⟨fun l => State.binding_of_label noAlias noDefine, State.binding_of_unbound noAlias noDefine⟩⟩⟩

/-! ### Pins (R323, R324) -/

section

variable {v : F64}

theorem pinIndex_of_truncInt_none (h : F64.truncInt v = none) : pinIndex v = .error (.raised .deviceNotFound) := by
  simp only [pinIndex, (toIdx_eq_error v .deviceNotFound _).2 ⟨h, rfl⟩]

theorem pinIndex_of_outside {i : Int} (h : F64.truncInt v = some i) (outside : i < 0 ∨ 5 < i) :
    pinIndex v = .error (.raised .deviceNotFound) := by
  simp only [pinIndex, (toIdx_eq_ok v .deviceNotFound i).2 h]
  exact dif_neg (by omega)

theorem pinIndex_of_pin {p : Fin 6} (h : F64.truncInt v = some (p.val : Int)) : pinIndex v = .ok p := by
  have hp := p.isLt
  simp only [pinIndex, (toIdx_eq_ok v .deviceNotFound p.val).2 h]
  exact dif_pos (by omega)

end

namespace State

variable {s : State} {n : Fin 18} {k : Nat}

theorem pinOf_of_depth (h : s.params.maxIndirection < k) :
    s.pinOf (.ind n k) = .error (.raised .invalidIndirectionDepth) := by
  simp only [pinOf, depthOk_of_lt h]

/-- The last of the register reads of an indirect pin gives its index; those before it are hops of a register. -/
theorem pinOf_ind (h : k ≤ s.params.maxIndirection) :
    s.pinOf (.ind n k) = (s.hops (k - 1) n).bind fun i => (pinIndex (s.x.get i)).map .d := by
  simp only [pinOf, depthOk_of_le h]
  cases s.hops (k - 1) n with
  | error => rfl
  | ok i =>
    simp only [Except.bind]
    cases pinIndex (s.x.get i) <;> rfl

section

variable (h : k ≤ s.params.maxIndirection)

include h

theorem pinOf_of_cell_error {e : Exn} (cell : s.cellOf (.gpr n (k - 1)) = .error e) :
    s.pinOf (.ind n k) = .error e := by
  rw [cellOf_gpr ((Nat.sub_le k 1).trans h)] at cell
  rw [pinOf_ind h]
  cases hops : s.hops (k - 1) n with
  | error e' => rw [hops] at cell; cases cell; rfl
  | ok i => rw [hops] at cell; cases cell

theorem pinOf_of_cell {m : Fin 18} (cell : s.cellOf (.gpr n (k - 1)) = .ok (.x m)) :
    s.pinOf (.ind n k) = (pinIndex (s.x.get m)).map .d := by
  rw [cellOf_gpr ((Nat.sub_le k 1).trans h)] at cell
  rw [pinOf_ind h]
  cases hops : s.hops (k - 1) n with
  | error e => rw [hops] at cell; cases cell
  | ok i => rw [hops] at cell; cases cell; rfl

end

theorem pin_name_of_pin {n : Ident} {p : PinRef} (h : s.binding n = .ok (.target (.pin p))) :
    s.pin (.name n) = s.pin (.pin p) := by
  simp only [State.pin, h]

theorem pin_name_of_unbound {n : Ident} {e : Exn} (h : s.binding n = .error e) : s.pin (.name n) = .error e := by
  simp only [State.pin, h]

end State

/-- Settles O17: the cell of one read less holds the index of the pin. -/
theorem pinResolution : Obligations.PinResolution := by
  unfold Obligations.PinResolution
  refine ⟨fun _ _ => rfl, fun s n k => ⟨State.pinOf_of_depth, fun _ hk => ⟨fun e => State.pinOf_of_cell_error hk,
    fun m cell => ?index⟩⟩, fun s n p => State.pin_name_of_pin, fun s n e => State.pin_name_of_unbound⟩
  have pin : s.pin (.pin (.ind n k)) = (pinIndex (s.x.get m)).map .d := State.pinOf_of_cell hk cell
  rw [pin]
  exact ⟨fun h => by rw [pinIndex_of_truncInt_none h]; rfl,
    fun i h outside => by rw [pinIndex_of_outside h outside]; rfl, fun p h => by rw [pinIndex_of_pin h]; rfl⟩

/-! ### Batch modes (R327) -/

section

variable {v : F64}

theorem modeNumber_of_truncInt_none (h : F64.truncInt v = none) :
    modeNumber v = .error (.raised .invalidLogicType) := by
  simp only [modeNumber, (toIdx_eq_error v .invalidLogicType _).2 ⟨h, rfl⟩]

theorem modeNumber_of_truncInt {i : Int} (h : F64.truncInt v = some i) :
    modeNumber v = if i = 0 then .ok .average else if i = 1 then .ok .sum else if i = 2 then .ok .minimum
      else if i = 3 then .ok .maximum else .error (.raised .invalidLogicType) := by
  simp only [modeNumber, (toIdx_eq_ok v .invalidLogicType i).2 h]

variable {s : State} {o : ValOp}

theorem State.mode_of_value_error {e : Exn} (h : s.value o = .error e) : s.mode (.val o) = .error e := by
  simp only [State.mode, h]

theorem State.mode_of_value (h : s.value o = .ok v) : s.mode (.val o) = modeNumber v := by
  simp only [State.mode, h]

end

/-- Settles O18: the mode of a number is that of its truncated value. -/
theorem batchModeNumbers : Obligations.BatchModeNumbers := by
  unfold Obligations.BatchModeNumbers
  refine fun s => ⟨fun _ => rfl, fun o e => State.mode_of_value_error, fun o v hv => ?_⟩
  rw [State.mode_of_value hv]
  refine ⟨modeNumber_of_truncInt, modeNumber_of_truncInt, modeNumber_of_truncInt, modeNumber_of_truncInt,
    modeNumber_of_truncInt_none, fun i h outside => ?_⟩
  rw [modeNumber_of_truncInt h, if_neg (by omega), if_neg (by omega), if_neg (by omega), if_neg (by omega)]

end Sys2Proof.Machine

namespace Sys2Proof

/-! ### Lines written out -/

/-- Settles O1: the decoder is run on each line. -/
theorem writtenLinesDecode : Obligations.WrittenLinesDecode := by
  unfold Obligations.WrittenLinesDecode
  refine ⟨?_, ?_, ?_, ?_, ?_, ?_, ?_, ?_, ?_, ?_, ?_, ?_, ?_, ?_⟩
  all_goals decide +kernel

end Sys2Proof
end

section
/-! PROOFS. Exact results: a remainder (O8) and an integral value (O10) of data is a multiple of a power of two with a
53-bit factor, which is a datum and so is rounded to itself. -/

namespace Sys2Proof.F64

/-! ### Which magnitudes are data -/

theorem scale_le (e : Fin 2047) : scale e ≤ 2045 := by
  unfold scale
  omega

theorem units_lt (e : Fin 2047) (f : BitVec 52) : units e f < 2 ^ 53 * 2 ^ scale e :=
  Nat.mul_lt_mul_of_pos_right (sig_lt e f) (Nat.two_pow_pos _)

theorem units_lt_of_scale_lt {e : Fin 2047} (f : BitVec 52) {k : Nat} (h : scale e < k) :
    units e f < 2 ^ 52 * 2 ^ k := by
  calc units e f
    _ < 2 ^ 53 * 2 ^ scale e := units_lt e f
    _ = 2 ^ 52 * 2 ^ (scale e + 1) := by rw [Nat.pow_succ 2 (scale e)]; omega
    _ ≤ 2 ^ 52 * 2 ^ k := Nat.mul_le_mul_left _ (Nat.pow_le_pow_right Nat.two_pos h)

/-- A factor of fewer than 53 bits is doubled, and the exponent lowered, until it is normal or the exponent is 0. -/
theorem exists_units_eq_mul_two_pow {j c : Nat} (hj : j ≤ 2045) (hc : c < 2 ^ 53) : ∃ e f, units e f = c * 2 ^ j := by
  induction j generalizing c with
  | zero =>
    obtain ⟨e, f, -, hunits, -⟩ := ofMagnitude_eq_fin false (.inl rfl) (Nat.le_of_lt hc) (by omega)
    exact ⟨e, f, hunits⟩
  | succ j ih =>
    rcases Nat.lt_or_ge c (2 ^ 52) with hsmall | hnormal
    · obtain ⟨e, f, hunits⟩ := ih (c := c * 2) (by omega) (by omega)
      exact ⟨e, f, by rw [hunits, Nat.pow_succ', Nat.mul_assoc]⟩
    · obtain ⟨e, f, -, hunits, -⟩ := ofMagnitude_eq_fin false (j := j + 1) (.inr hnormal) (Nat.le_of_lt hc) (by omega)
      exact ⟨e, f, hunits⟩

theorem exists_units_eq_of_dvd {k n : Nat} (hk : k ≤ 2045) (hdvd : 2 ^ k ∣ n) (hn : n < 2 ^ 53 * 2 ^ k) :
    ∃ e f, units e f = n := by
  obtain ⟨c, rfl⟩ := hdvd
  rw [Nat.mul_comm] at hn ⊢
  exact exists_units_eq_mul_two_pow hk (Nat.lt_of_mul_lt_mul_right hn)

/-- A multiple of a datum's unit in the last place is a datum, if it is not above that datum. -/
theorem exists_units_eq_of_le {n : Nat} (e : Fin 2047) (f : BitVec 52) (hdvd : 2 ^ scale e ∣ n) (hn : n ≤ units e f) :
    ∃ e' f', units e' f' = n :=
  exists_units_eq_of_dvd (scale_le e) hdvd (Nat.lt_of_le_of_lt hn (units_lt e f))

/-- What is a datum already is rounded to itself. -/
theorem roundUnits_exact (neg : Bool) {n : Nat} (h : ∃ e f, units e f = n) :
    ∃ e f, roundUnits neg n 1 = .fin neg e f ∧ units e f = n := by
  obtain ⟨e, f, rfl⟩ := h
  exact ⟨e, f, by rw [← Nat.mul_one (units e f), roundUnits_units neg e f Nat.one_pos], rfl⟩

/-! ### The remainder (R407) -/

theorem exists_units_eq_mod (e g : Fin 2047) (f h : BitVec 52) (hg : units g h ≠ 0) :
    ∃ e' f', units e' f' = units e f % units g h := by
  rcases Nat.le_total (scale e) (scale g) with hle | hle
  · refine exists_units_eq_of_le e f ?_ (Nat.mod_le _ _)
    exact (Nat.dvd_mod_iff (two_pow_dvd_units hle h)).2 (two_pow_dvd_units (Nat.le_refl _) f)
  · refine exists_units_eq_of_le g h ?_ (Nat.le_of_lt (Nat.mod_lt _ (Nat.pos_of_ne_zero hg)))
    exact (Nat.dvd_mod_iff (two_pow_dvd_units (Nat.le_refl _) h)).2 (two_pow_dvd_units hle f)

theorem fmod_fin (s t : Bool) (e g : Fin 2047) (f h : BitVec 52) :
    fmod (.fin s e f) (.fin t g h) =
      if units g h = 0 then .nan else roundUnits s (units e f % units g h) 1 := rfl

@[simp] theorem fmod_nan (a : F64) : fmod a .nan = .nan := by cases a <;> rfl

@[simp] theorem inf_fmod (s : Bool) (a : F64) : fmod (.inf s) a = .nan := by cases a <;> rfl

/-- Settles O8: the remainder is a multiple of the finer unit in the last place, below the datum of that unit. -/
theorem remainderIsExact : Obligations.RemainderIsExact := by
  unfold Obligations.RemainderIsExact
  refine ⟨fun s t e g f h hg => ?_, fun s t e g f h hg => ?_, fun _ _ _ _ => rfl,
    fun s a => ⟨inf_fmod s a, rfl, fmod_nan a⟩, fun _ _ => rfl⟩
  · rw [fmod_fin, if_neg hg]
    exact roundUnits_exact s (exists_units_eq_mod e g f h hg)
  · rw [fmod_fin, if_pos hg]

/-! ### Integral values (R410 to R413) -/

theorem unitsPerOne_pos : 0 < unitsPerOne := by
  unfold unitsPerOne
  positivity

section

variable (s : Bool) (whole rest : Nat)

@[simp] theorem bumps_up_iff : bumps .up s whole rest = true ↔ s = false ∧ rest ≠ 0 := by
  simp [bumps, Nat.pos_iff_ne_zero]

@[simp] theorem bumps_down_iff : bumps .down s whole rest = true ↔ s = true ∧ rest ≠ 0 := by
  simp [bumps, Nat.pos_iff_ne_zero]

@[simp] theorem bumps_toZero : bumps .toZero s whole rest = false := rfl

@[simp] theorem bumps_halfAway_iff : bumps .halfAway s whole rest = true ↔ unitsPerOne ≤ 2 * rest := by
  simp [bumps]

@[simp] theorem bumps_halfEven_iff : bumps .halfEven s whole rest = true ↔
    unitsPerOne < 2 * rest ∨ (unitsPerOne = 2 * rest ∧ whole % 2 = 1) := by
  simp [bumps, eq_comm (a := unitsPerOne)]

end

/-- An integral value is not moved in any direction. -/
theorem bumps_rest_zero (d : Dir) (s : Bool) (whole : Nat) : bumps d s whole 0 = false := by
  have hone := unitsPerOne_pos
  rw [Bool.eq_false_iff]
  cases d with
  | up | down | toZero => simp
  | halfAway | halfEven => simp; omega

/-- The magnitude, in ones, that a magnitude in units is rounded to. -/
def integralOf (d : Dir) (s : Bool) (n : Nat) : Nat :=
  if bumps d s (n / unitsPerOne) (n % unitsPerOne) then n / unitsPerOne + 1 else n / unitsPerOne

theorem roundToIntegral_fin (d : Dir) (s : Bool) (e : Fin 2047) (f : BitVec 52) :
    roundToIntegral d (.fin s e f) = roundUnits s (integralOf d s (units e f) * unitsPerOne) 1 := rfl

theorem integralOf_le (d : Dir) (s : Bool) (n : Nat) : integralOf d s n ≤ n / unitsPerOne + 1 := by
  unfold integralOf
  split <;> omega

theorem integralOf_mul_of_dvd (d : Dir) (s : Bool) {n : Nat} (h : unitsPerOne ∣ n) :
    integralOf d s n * unitsPerOne = n := by
  rw [integralOf, Nat.mod_eq_zero_of_dvd h, bumps_rest_zero, if_neg Bool.false_ne_true, Nat.div_mul_cancel h]

/-- A datum with a fraction part is below 2^52, so that its two integral neighbours have at most 53 bits; any other is
kept. -/
theorem exists_units_eq_integralOf (d : Dir) (s : Bool) (e : Fin 2047) (f : BitVec 52) :
    ∃ e' f', units e' f' = integralOf d s (units e f) * unitsPerOne := by
  rcases Nat.lt_or_ge (scale e) 1074 with hfrac | hint
  · have hwhole : units e f / unitsPerOne < 2 ^ 52 := by
      rw [Nat.div_lt_iff_lt_mul unitsPerOne_pos, unitsPerOne_eq]
      exact units_lt_of_scale_lt f hfrac
    have hle := integralOf_le d s (units e f)
    have hlt : integralOf d s (units e f) < 2 ^ 53 := by omega
    rw [unitsPerOne_eq]
    exact exists_units_eq_mul_two_pow (by decide) hlt
  · rw [integralOf_mul_of_dvd d s (unitsPerOne_eq ▸ two_pow_dvd_units hint f)]
    exact ⟨e, f, rfl⟩

/-- Settles O10: the integral neighbours of a datum are data. -/
theorem integralRoundingIsExact : Obligations.IntegralRoundingIsExact := by
  unfold Obligations.IntegralRoundingIsExact
  refine ⟨fun _ => ⟨rfl, fun _ => rfl⟩, fun d s e f => ?_⟩
  dsimp only
  obtain ⟨e', f', hround, hunits⟩ := roundUnits_exact s (exists_units_eq_integralOf d s e f)
  refine ⟨e', f', (roundToIntegral_fin d s e f).trans hround, ?_⟩
  rw [hunits, Nat.mul_comm, integralOf]
  cases d with
  | up => simp only [bumps_up_iff]
  | down => simp only [bumps_down_iff]
  | toZero => rfl
  | halfAway => simp only [bumps_halfAway_iff]
  | halfEven => simp only [bumps_halfEven_iff]

end Sys2Proof.F64
end

section
/-! PROOFS. The square root is correctly rounded (O9). Both the root and the number that is rounded in its place lie
between neighbouring multiples of `2^h`, and the middles between data are multiples of it, so that both lie on the same
side of every middle. -/

namespace Sys2Proof.F64

/-! ### The integer square root -/

/-- The bits tried keep the root between `r` and `r + 2^k`. -/
theorem isqrtFrom_spec {n k r : Nat} (hlow : r * r ≤ n) (hhigh : n < (r + 2 ^ k) * (r + 2 ^ k)) :
    isqrtFrom n k r * isqrtFrom n k r ≤ n ∧ n < (isqrtFrom n k r + 1) * (isqrtFrom n k r + 1) := by
  induction k generalizing r with
  | zero => exact ⟨hlow, hhigh⟩
  | succ k ih =>
    rw [isqrtFrom]
    split
    · next hbit => exact ih hbit (by rwa [Nat.add_assoc, ← Nat.mul_two, ← Nat.pow_succ])
    · next hbit => exact ih hlow (Nat.lt_of_not_le hbit)

theorem isqrt_eq_sqrt (n : Nat) : isqrt n = Nat.sqrt n := by
  refine Nat.eq_sqrt.2 (isqrtFrom_spec (Nat.zero_le n) ?_)
  rw [Nat.zero_add, ← Nat.pow_add]
  exact Nat.lt_of_lt_of_le Nat.lt_log2_self (Nat.pow_le_pow_right Nat.two_pos (by omega))

/-- The double of the integer root, plus one where the root is inexact: the number rounded in the place of twice the
root. -/
def doubleRoot (n : Nat) : Nat := if isqrt n * isqrt n = n then 2 * isqrt n else 2 * isqrt n + 1

/-- Twice the root and its double lie on the same side of every even number. -/
theorem doubleRoot_side (n p : Nat) :
    (2 * p ≤ doubleRoot n → p * p ≤ n) ∧ (doubleRoot n ≤ 2 * p → n ≤ p * p) := by
  unfold doubleRoot
  rw [isqrt_eq_sqrt]
  refine ⟨fun h => Nat.le_sqrt.1 (by split at h <;> omega), fun h => ?_⟩
  split at h
  · next hexact => exact hexact ▸ Nat.mul_self_le_mul_self (by omega)
  · exact Nat.le_of_lt (Nat.sqrt_lt.1 (by omega))

theorem le_doubleRoot {n p : Nat} (h : p * p ≤ n) : 2 * p ≤ doubleRoot n := by
  have := Nat.le_sqrt.2 h
  unfold doubleRoot
  rw [isqrt_eq_sqrt]
  split <;> omega

theorem doubleRoot_lt {n p : Nat} (h : n < p * p) : doubleRoot n < 2 * p := by
  have := Nat.sqrt_lt.2 h
  unfold doubleRoot
  rw [isqrt_eq_sqrt]
  split <;> omega

/-! ### Middles between data -/

/-- Between the rounded datum and any other number that is not strictly inside the grid's interval there is a multiple
of the grid's step, which has `2 * n` on the rounded datum's side. -/
theorem RoundsOnGrid.exists_middle {n j t c x : Nat} (h : RoundsOnGrid n 1 j t c)
    (hx : x ≤ t * 2 ^ j ∨ (t + 1) * 2 ^ j ≤ x) :
    (x < c * 2 ^ j → ∃ m, c * 2 ^ j + x ≤ m * 2 ^ j ∧ m * 2 ^ j ≤ 2 * n) ∧
      (c * 2 ^ j < x → ∃ m, m * 2 ^ j ≤ c * 2 ^ j + x ∧ 2 * n ≤ m * 2 ^ j) := by
  obtain ⟨-, -, hlower, hupper, hnear, -⟩ := h
  rw [Nat.one_mul] at hlower hupper hnear
  have hnext : (t + 1) * 2 ^ j = t * 2 ^ j + 2 ^ j := Nat.add_one_mul _ _
  have hmid : (2 * t + 1) * 2 ^ j = 2 * (t * 2 ^ j) + 2 ^ j := midpoint_mul _ _
  have hdouble (a : Nat) : 2 * a * 2 ^ j = 2 * (a * 2 ^ j) := Nat.mul_assoc _ _ _
  rcases hnear with ⟨rfl, hnear⟩ | ⟨rfl, hnear⟩
  · exact ⟨fun hlt => ⟨2 * c, by rw [hdouble]; omega, by rw [hdouble]; omega⟩,
      fun hlt => ⟨2 * c + 1, by omega, hnear⟩⟩
  · exact ⟨fun hlt => ⟨2 * t + 1, by omega, hnear⟩,
      fun hlt => ⟨2 * (t + 1), by rw [hdouble]; omega, by rw [hdouble]; omega⟩⟩

/-- Below the overflow threshold a rounded number is the datum of its place on the grid. -/
theorem roundUnits_eq_fin (neg : Bool) {n d : Nat} (hd : 0 < d) (hn : n < (2 ^ 54 - 1) * 2 ^ 2044 * d) :
    ∃ j t c e f, RoundsOnGrid n d j t c ∧ roundUnits neg n d = .fin neg e f ∧ units e f = c * 2 ^ j := by
  obtain ⟨j, t, c, hgrid, hround⟩ := roundUnits_eq_ofMagnitude neg n hd
  have hfin : j * 2 ^ 52 + c < 2047 * 2 ^ 52 := by
    rw [← Nat.not_le, hgrid.overflow_iff]
    exact Nat.not_le.2 hn
  obtain ⟨hnormal, hlt, -, -, hnear, -⟩ := id hgrid
  obtain ⟨e, f, heq, hunits, -⟩ := ofMagnitude_eq_fin neg (j := j) (c := c) (by omega) (by omega) hfin
  exact ⟨j, t, c, e, f, hgrid, hround.trans heq, hunits⟩

/-- Where `q` has 55 bits, the step of the grid near `q * 2^h` is a multiple of `4 * 2^h`. -/
theorem RoundsOnGrid.dvd_step {q h j t c : Nat} (hgrid : RoundsOnGrid (q * 2 ^ h) 1 j t c) (hq : 2 ^ 54 ≤ q) :
    4 * 2 ^ h ∣ 2 ^ j := by
  obtain ⟨-, hlt, -, hupper, -, -⟩ := hgrid
  have hpow : 2 ^ (54 + h) < 2 ^ (53 + j) := calc
    2 ^ (54 + h) = 2 ^ 54 * 2 ^ h := Nat.pow_add ..
    _ ≤ q * 2 ^ h := Nat.mul_le_mul_right _ hq
    _ < (t + 1) * (1 * 2 ^ j) := hupper
    _ ≤ 2 ^ 53 * (1 * 2 ^ j) := Nat.mul_le_mul_right _ hlt
    _ = 2 ^ (53 + j) := by rw [Nat.one_mul, Nat.pow_add]
  have hexp := (Nat.pow_lt_pow_iff_right (by decide)).1 hpow
  rw [show (4 : Nat) = 2 ^ 2 from rfl, ← Nat.pow_add]
  exact Nat.pow_dvd_pow 2 (by omega)

/-- Rounding the double root of `n` is rounding twice the root of `n`, both scaled by `2^h`: the square of a middle
compares with the square of twice the scaled root as the middle does. -/
theorem roundUnits_doubleRoot {n h : Nat} (hlow : 2 ^ 53 * 2 ^ 53 ≤ n)
    (hhigh : doubleRoot n * 2 ^ h < (2 ^ 54 - 1) * 2 ^ 2044) :
    ∃ e f, roundUnits false (doubleRoot n * 2 ^ h) 1 = .fin false e f ∧ ∀ (g : Fin 2047) (k : BitVec 52),
      (units g k < units e f → (units e f + units g k) ^ 2 ≤ n * (4 * 2 ^ h) ^ 2) ∧
      (units e f < units g k → n * (4 * 2 ^ h) ^ 2 ≤ (units e f + units g k) ^ 2) := by
  obtain ⟨j, t, c, e, f, hgrid, hround, hunits⟩ := roundUnits_eq_fin false Nat.one_pos (by rwa [Nat.mul_one])
  obtain ⟨i, hi⟩ := hgrid.dvd_step (le_doubleRoot hlow)
  have hstep (m : Nat) : m * 2 ^ j = m * i * (4 * 2 ^ h) := by rw [hi, Nat.mul_comm _ i, Nat.mul_assoc]
  have hsquare (m : Nat) : (m * 2 ^ j) ^ 2 = m * i * (m * i) * (4 * 2 ^ h) ^ 2 := by
    rw [hstep, Nat.mul_pow, Nat.pow_two (m * i)]
  have hpos : 0 < 2 * 2 ^ h := Nat.mul_pos Nat.two_pos (Nat.two_pow_pos h)
  have htwice : 2 * (doubleRoot n * 2 ^ h) = doubleRoot n * (2 * 2 ^ h) := Nat.mul_left_comm _ _ _
  have hquad (p : Nat) : p * (4 * 2 ^ h) = 2 * p * (2 * 2 ^ h) := by ring
  refine ⟨e, f, hround, fun g k => ?_⟩
  obtain ⟨hbelow, habove⟩ := hgrid.exists_middle (units_le_or_ge g k hgrid.normal)
  rw [hunits]
  refine ⟨fun hlt => ?_, fun hlt => ?_⟩
  · obtain ⟨m, hm, hside⟩ := hbelow hlt
    rw [hstep, hquad, htwice] at hside
    calc (c * 2 ^ j + units g k) ^ 2
      _ ≤ (m * 2 ^ j) ^ 2 := Nat.pow_le_pow_left hm 2
      _ = m * i * (m * i) * (4 * 2 ^ h) ^ 2 := hsquare m
      _ ≤ n * (4 * 2 ^ h) ^ 2 :=
        Nat.mul_le_mul_right _ ((doubleRoot_side n _).1 (Nat.le_of_mul_le_mul_right hside hpos))
  · obtain ⟨m, hm, hside⟩ := habove hlt
    rw [hstep, hquad, htwice] at hside
    calc n * (4 * 2 ^ h) ^ 2
      _ ≤ m * i * (m * i) * (4 * 2 ^ h) ^ 2 :=
        Nat.mul_le_mul_right _ ((doubleRoot_side n _).2 (Nat.le_of_mul_le_mul_right hside hpos))
      _ = (m * 2 ^ j) ^ 2 := (hsquare m).symm
      _ ≤ (c * 2 ^ j + units g k) ^ 2 := Nat.pow_le_pow_left hm 2

/-! ### The square root (R409) -/

/-- The radicand of `sqrtUnits`. -/
def radicand (m k : Nat) : Nat := m * 2 ^ ((k + 1074) % 2) * 4 ^ 56

theorem sqrtUnits_eq (m k : Nat) :
    sqrtUnits m k = roundUnits false (doubleRoot (radicand m k) * 2 ^ ((k + 1074) / 2 - 57)) 1 := by
  unfold sqrtUnits doubleRoot radicand
  dsimp only
  split <;> rfl

/-- The radicand, scaled by an even power of two, is four times the operand in square units. -/
theorem radicand_mul (m k : Nat) :
    radicand m k * (4 * 2 ^ ((k + 1074) / 2 - 57)) ^ 2 = 4 * (m * 2 ^ k * unitsPerOne) := by
  rw [unitsPerOne_eq, Nat.mul_assoc m, ← Nat.pow_add, radicand]
  obtain ⟨b, hb⟩ : ∃ b, k + 1074 = (k + 1074) % 2 + 2 * (b + 57) := ⟨(k + 1074) / 2 - 57, by omega⟩
  rw [show (k + 1074) / 2 - 57 = b by omega]
  generalize (k + 1074) % 2 = a at hb ⊢
  rw [hb]
  ring

theorem radicand_bounds {m k : Nat} (hpos : m ≠ 0) (hlt : m < 2 ^ 53) :
    2 ^ 53 * 2 ^ 53 ≤ radicand m k ∧ radicand m k < 2 ^ 83 * 2 ^ 83 := by
  unfold radicand
  rcases Nat.mod_two_eq_zero_or_one (k + 1074) with hmod | hmod <;> rw [hmod] <;> omega

theorem mul_two_pow_lt {q h k : Nat} (hq : q < 2 * 2 ^ 83) (hk : h + 31 ≤ k) :
    q * 2 ^ h < (2 ^ 54 - 1) * 2 ^ k := by
  calc q * 2 ^ h
    _ < 2 * 2 ^ 83 * 2 ^ h := Nat.mul_lt_mul_of_pos_right hq (Nat.two_pow_pos h)
    _ = 2 ^ 53 * 2 ^ (h + 31) := by rw [Nat.pow_add 2 h]; omega
    _ ≤ (2 ^ 54 - 1) * 2 ^ k := Nat.mul_le_mul (by decide) (Nat.pow_le_pow_right Nat.two_pos hk)

theorem sqrtUnits_nearest {e : Fin 2047} {f : BitVec 52} (h : units e f ≠ 0) :
    ∃ g k, sqrtUnits (sig e f) (scale e) = .fin false g k ∧ ∀ (g' : Fin 2047) (k' : BitVec 52),
      (units g' k' < units g k → (units g k + units g' k') ^ 2 ≤ 4 * (units e f * unitsPerOne)) ∧
      (units g k < units g' k' → 4 * (units e f * unitsPerOne) ≤ (units g k + units g' k') ^ 2) := by
  have hsig : sig e f ≠ 0 := fun hz => h (by rw [units, hz, Nat.zero_mul])
  obtain ⟨hlow, hhigh⟩ := radicand_bounds (k := scale e) hsig (sig_lt e f)
  have hexp : (scale e + 1074) / 2 - 57 + 31 ≤ 2044 := by have := scale_le e; omega
  rw [sqrtUnits_eq, units, ← radicand_mul]
  exact roundUnits_doubleRoot hlow (mul_two_pow_lt (doubleRoot_lt hhigh) hexp)

theorem units_zero : units 0 0 = 0 := rfl

theorem sqrt_fin (s : Bool) (e : Fin 2047) (f : BitVec 52) :
    sqrt (.fin s e f) =
      if units e f = 0 then zeroOf s else if s then .nan else sqrtUnits (sig e f) (scale e) := rfl

/-- Settles O9: the number rounded in the root's place has every middle between data on the root's side. -/
theorem squareRootIsNearest : Obligations.SquareRootIsNearest := by
  unfold Obligations.SquareRootIsNearest
  refine ⟨fun e f h => ?_, fun e f h => ?_, fun s => ?_, rfl, rfl, rfl⟩
  · rw [sqrt_fin, if_neg h, if_neg Bool.false_ne_true]
    exact sqrtUnits_nearest h
  · rw [sqrt_fin, if_neg h, if_pos rfl]
  · rw [zeroOf, sqrt_fin, if_pos units_zero, zeroOf]

end Sys2Proof.F64
end

section
/-! PROOFS. The required values of `MathLib` (O13), and the instructions of arithmetic: each writes its operation's result
(O22, O23), or the host's draw (O24). -/

namespace Sys2Proof.F64

/-! ### Comparisons with zero and one -/

@[simp] theorem place_zeroOf (s : Bool) : place (zeroOf s) = some 0 := by cases s <;> rfl

@[simp] theorem place_zero : place zero = some 0 := place_zeroOf false

@[simp] theorem isZero_zeroOf (s : Bool) : isZero (zeroOf s) = true := by
  simp [isZero, eq]

theorem isZero_of_lt_zero {v : F64} (h : lt v zero = true) : isZero v = false := by
  simp only [isZero, eq, lt, place_zero] at h ⊢
  split at h
  · next hx hzero =>
    cases hzero
    simpa [hx] using Int.ne_of_lt (of_decide_eq_true h)
  · cases h

theorem isNaN_eq_false_of_lt_zero {v : F64} (h : lt v zero = true) : isNaN v = false := by
  cases v with
  | nan => cases h
  | inf | fin => rfl

/-! ### The required values (R402, R422) -/

theorem log_of_lt_zero {v : F64} (h : lt v zero = true) : log v = .nan := by
  simp [log, h, isZero_of_lt_zero, isNaN_eq_false_of_lt_zero]

theorem mathLib_zeroOf (s : Bool) : sin (zeroOf s) = zeroOf s ∧ tan (zeroOf s) = zeroOf s ∧ asin (zeroOf s) = zeroOf s ∧
    atan (zeroOf s) = zeroOf s ∧ cos (zeroOf s) = one ∧ exp (zeroOf s) = one ∧ log (zeroOf s) = .inf true := by
  have hfin : isNaN (zeroOf s) = false ∧ isInf (zeroOf s) = false := ⟨rfl, rfl⟩
  have hrange : gt (abs (zeroOf s)) one = false := by cases s <;> decide +kernel
  have hatan : atan (zeroOf s) = if isZero (zeroOf s) then zeroOf s else Config.atan (zeroOf s) := rfl
  have hexp : exp (zeroOf s) = if isZero (zeroOf s) then one else Config.exp (zeroOf s) := rfl
  simp [sin, tan, asin, cos, log, hatan, hexp, hfin, hrange]

theorem asin_acos_of_abs_gt_one {v : F64} (h : gt (abs v) one = true) : asin v = .nan ∧ acos v = .nan := by
  simp [asin, acos, h]

theorem atan2_nan (v : F64) : atan2 v .nan = .nan := by
  simp [atan2, show isNaN .nan = true from rfl]

/-- Settles O13: each required value is the branch of its function that the argument takes. -/
theorem mathLibRequiredValues : Obligations.MathLibRequiredValues := by
  unfold Obligations.MathLibRequiredValues
  refine ⟨⟨rfl, rfl, rfl, rfl, rfl, rfl, rfl, rfl, fun v => ⟨rfl, atan2_nan v⟩⟩, fun s => ?zeros, ?acosOne, ?logOne,
    fun v => asin_acos_of_abs_gt_one, ?atanInf, ?atanNegInf, rfl, rfl, ?logInf, fun v => log_of_lt_zero,
    ?pi, ?negPi, ?halfPi, ?zero, ?quarterPi⟩
  case zeros =>
    obtain ⟨hsin, htan, hasin, hatan, hcos, hexp, hlog⟩ := mathLib_zeroOf s
    exact ⟨hsin, htan, hasin, hatan, hcos, hexp, hlog, rfl, rfl, rfl⟩
  case acosOne | logOne | atanInf | atanNegInf | logInf => decide +kernel
  case pi | negPi | halfPi | zero | quarterPi => decide +kernel

end Sys2Proof.F64

namespace Sys2Proof.Machine

/-! ### The templates -/

section

variable {s : State} {r : RegOp} {a b d : ValOp} {c : Cell} {x y z : F64}

theorem writesOnly_unary (f : F64 → F64) (hr : s.dest r = .ok c) (ha : s.value a = .ok x) :
    WritesOnly (perform (unary f r a) s) s c (f x) := by
  rw [perform_ok _ _ _ (unary_ok f r a s c x hr ha)]
  exact writesOnly_writeCell s c (f x)

theorem writesOnly_binary (f : F64 → F64 → F64) (hr : s.dest r = .ok c) (ha : s.value a = .ok x)
    (hb : s.value b = .ok y) : WritesOnly (perform (binary f r a b) s) s c (f x y) := by
  rw [perform_ok _ _ _ (binary_ok f r a b s c x y hr ha hb)]
  exact writesOnly_writeCell s c (f x y)

theorem writesOnly_ternary (f : F64 → F64 → F64 → F64) (hr : s.dest r = .ok c) (ha : s.value a = .ok x)
    (hb : s.value b = .ok y) (hd : s.value d = .ok z) :
    WritesOnly (perform (ternary f r a b d) s) s c (f x y z) := by
  rw [perform_ok _ _ _ (ternary_ok f r a b d s c x y z hr ha hb hd)]
  exact writesOnly_writeCell s c (f x y z)

end

/-- Settles O22: each instruction is the one-source template of its operation. -/
theorem unaryInstructionsWriteResult : Obligations.UnaryInstructionsWriteResult := by
  unfold Obligations.UnaryInstructionsWriteResult
  intro s r a c x hr ha
  have template (f : F64 → F64) := writesOnly_unary f hr ha
  simp only [List.forall_mem_cons]
  exact ⟨template F64.abs, template F64.sqrt, template (F64.roundToIntegral .up), template (F64.roundToIntegral .down),
    template (F64.roundToIntegral .toZero), template (F64.roundToIntegral (roundDir s.params.roundHalf)),
    template F64.exp, template F64.log, template F64.sin, template F64.cos, template F64.tan, template F64.asin,
    template F64.acos, template F64.atan, template id, template (notBits s.params.bitwise), fun _ => nofun⟩

/-- Settles O23: each instruction is the template of its operation with two sources, or three for `select`. -/
theorem binaryInstructionsWriteResult : Obligations.BinaryInstructionsWriteResult := by
  unfold Obligations.BinaryInstructionsWriteResult
  intro s r a b d c x y z hr ha hb hd
  have template (f : F64 → F64 → F64) := writesOnly_binary f hr ha hb
  simp only [List.forall_mem_cons]
  exact ⟨template F64.add, template F64.sub, template F64.mul, template F64.div, template F64.mod, template F64.atan2,
    template F64.max, template F64.min, writesOnly_ternary selectValue hr ha hb hd, fun _ => nofun⟩

/-! ### Draws (R425) -/

theorem writesWithPort_rand {s : State} {r : RegOp} {c : Cell} {u : Draw} {q : Port} (hr : s.dest r = .ok c)
    (hu : s.port.nextDraw = (u, q)) : WritesWithPort (exec (.rand r) s) s c u.value q := by
  have heq : exec (.rand r) s = .next ({ s with port := q }.writeCell c u.value) := by
    refine perform_ok _ _ _ ?_
    rw [bind_of_ok _ _ s s c (dest_ok r s c hr), bind_of_ok _ _ s _ u (ask_apply _ s u q hu)]
    rfl
  rw [heq]
  exact writesWithPort_writeCell s q c u.value

theorem units_draw_lt (u : Draw) (h : u.biased.val < 2047) : F64.units ⟨u.biased.val, h⟩ u.frac < F64.units 1023 0 :=
  calc F64.units ⟨u.biased.val, h⟩ u.frac
    _ < 2 ^ 52 * 2 ^ 1022 := F64.units_lt_of_scale_lt _ (by have := u.biased.isLt; simp only [F64.scale]; omega)
    _ = F64.units 1023 0 := by decide +kernel

/-- A draw's value stands at its magnitude: only a zero draw has a sign. -/
theorem place_draw (u : Draw) : ∃ h, F64.place u.value = some (F64.units ⟨u.biased.val, h⟩ u.frac : Int) := by
  have h : u.biased.val < 2047 := by have := u.biased.isLt; omega
  refine ⟨h, congrArg some ?_⟩
  unfold F64.signedUnits
  split
  next hneg =>
    simp only [Bool.and_eq_true, beq_iff_eq] at hneg
    obtain ⟨⟨-, hbiased⟩, hfrac⟩ := hneg
    simp [F64.units, F64.sig, hbiased, hfrac]
  next => rfl

/-- Settles O24: a draw is a magnitude below that of 1. -/
theorem randomDraw : Obligations.RandomDraw := by
  unfold Obligations.RandomDraw
  refine ⟨fun s r c u q => writesWithPort_rand, fun u => ?_⟩
  obtain ⟨h, hplace⟩ := place_draw u
  have hone : F64.place F64.one = some (F64.units 1023 0 : Int) := rfl
  have hlt := units_draw_lt u h
  simp only [F64.le, F64.lt, hplace, hone, F64.place_zero, decide_eq_true_eq]
  omega

end Sys2Proof.Machine
end

section
/-! PROOFS. The conversions between data and integers (O11), and the instructions on the integers of R500: each writes the
datum of its operation's result (O25). -/

namespace Sys2Proof.F64

/-! ### Integers as data -/

theorem ofNat_eq_ofInt (n : Nat) : ofNat n = ofInt n := by
  rw [ofInt, decide_eq_false (Int.not_lt.2 (Int.natCast_nonneg n))]
  rfl

/-- The factor 2^53, which has 54 bits, is 2^52 with the next exponent. -/
theorem exists_units_eq_mul_two_pow_of_le {j c : Nat} (hj : j ≤ 2044) (hc : c ≤ 2 ^ 53) :
    ∃ e f, units e f = c * 2 ^ j := by
  rcases Nat.lt_or_eq_of_le hc with hlt | rfl
  · exact exists_units_eq_mul_two_pow (by omega) hlt
  · obtain ⟨e, f, hunits⟩ := exists_units_eq_mul_two_pow (j := j + 1) (c := 2 ^ 52) (by omega) (by omega)
    exact ⟨e, f, by rw [hunits, Nat.pow_succ]; omega⟩

theorem exists_units_eq_mul_unitsPerOne {n : Nat} (h : n ≤ 2 ^ 53) : ∃ e f, units e f = n * unitsPerOne :=
  unitsPerOne_eq ▸ exists_units_eq_mul_two_pow_of_le (by decide) h

/-- An integer up to 2^53 is a datum, so the conversion keeps its magnitude, and its sign is the datum's. -/
theorem truncInt_ofInt {i : Int} (h : i.natAbs ≤ 2 ^ 53) : truncInt (ofInt i) = some i := by
  obtain ⟨e, f, hround, hunits⟩ := roundUnits_exact (decide (i < 0)) (exists_units_eq_mul_unitsPerOne h)
  have hdatum : ofInt i = .fin (decide (i < 0)) e f := hround
  have hwhole : units e f / unitsPerOne = i.natAbs := by rw [hunits, Nat.mul_div_cancel _ unitsPerOne_pos]
  rw [hdatum, truncInt, hwhole]
  simp only [decide_eq_true_eq, Option.some.injEq]
  split <;> omega

end Sys2Proof.F64

namespace Sys2Proof.Machine

/-! ### The integer of a datum (R500) -/

section

variable {v : F64} {i : Int}

theorem integerOf_i64 (h : F64.truncInt v = some i) : integerOf .i64 v = max (-(2 ^ 63)) (min i (2 ^ 63 - 1)) := by
  simp only [integerOf, h]
  rfl

theorem integerOf_i53 (h : F64.truncInt v = some i) : integerOf .i53 v = i := by
  simp only [integerOf, h]

theorem integerOf_i64_bounds (v : F64) : -(2 ^ 63) ≤ integerOf .i64 v ∧ integerOf .i64 v < 2 ^ 63 := by
  cases v with
  | nan => decide
  | inf neg => cases neg <;> decide
  | fin s e f =>
    rw [integerOf_i64 (truncInt_fin s e f)]
    omega

theorem integerOf_of_fits (m : BitwiseModel) (h : F64.truncInt v = some i) (low : -(2 ^ (bitWidth m - 1) : Nat) ≤ i)
    (high : i < (2 ^ (bitWidth m - 1) : Nat)) : integerOf m v = i := by
  cases m with
  | i53 => exact integerOf_i53 h
  | i64 =>
    rw [integerOf_i64 h]
    simp only [bitWidth] at low high
    omega

/-- I64 clamps to what 64 bits hold, so it does not wrap. -/
theorem toInt_i64 (v : F64) : (toInt .i64 v).toInt = integerOf .i64 v :=
  BitVec.toInt_ofInt_eq_self (by decide) (integerOf_i64_bounds v).1 (integerOf_i64_bounds v).2

/-- I53 wraps at 53 bits (log 33). -/
theorem toInt_i53_sub_emod (h : F64.truncInt v = some i) : ((toInt .i53 v).toInt - i) % 2 ^ 53 = 0 := by
  rw [toInt, integerOf_i53 h, BitVec.toInt_ofInt]
  exact Int.emod_eq_zero_of_dvd Int.dvd_bmod_sub_self

theorem fromInt_ofInt_of_fits (m : BitwiseModel) (low : -(2 ^ (bitWidth m - 1) : Nat) ≤ i)
    (high : i < (2 ^ (bitWidth m - 1) : Nat)) : fromInt m (BitVec.ofInt (bitWidth m) i) = F64.ofInt i := by
  rw [fromInt, BitVec.toInt_ofInt_eq_self (by cases m <;> decide) (by exact_mod_cast low) (by exact_mod_cast high)]

end

/-- Settles O11: a small integer is a datum, I64 clamps to what its words hold, and I53 is the residue that 53 bits
hold. -/
theorem integersConvertExactly : Obligations.IntegersConvertExactly := by
  unfold Obligations.IntegersConvertExactly
  refine ⟨fun s e f => ?finite, rfl, rfl, fun m => ?nan, fun s => rfl, toInt_i64 (.inf false), toInt_i64 (.inf true),
    fun _ _ => rfl, fun _ => rfl, F64.ofNat_eq_ofInt, fun i hi => ⟨F64.truncInt_ofInt hi, fun m low high => ?fits⟩⟩
  case finite =>
    have htrunc := truncInt_fin s e f
    exact ⟨(toInt_i64 _).trans (integerOf_i64 htrunc), BitVec.le_toInt _, BitVec.toInt_lt, toInt_i53_sub_emod htrunc⟩
  case nan => cases m <;> rfl
  case fits =>
    exact ⟨congrArg (BitVec.ofInt _) (integerOf_of_fits m (F64.truncInt_ofInt hi) low high),
      fromInt_ofInt_of_fits m low high⟩

/-! ### Shifts (R501) -/

section

variable {m : BitwiseModel} {y : F64}

theorem shiftCount_of_inside (low : 0 ≤ (toInt m y).toInt) (high : (toInt m y).toInt < bitWidth m) :
    shiftCount m y = some (toInt m y).toInt.toNat := if_pos ⟨low, high⟩

theorem shiftCount_of_outside (h : (toInt m y).toInt < 0 ∨ bitWidth m ≤ (toInt m y).toInt) : shiftCount m y = none :=
  if_neg (by omega)

theorem shifts_of_count (x : F64) {n : Nat} (h : shiftCount m y = some n) :
    shiftLeft m x y = fromInt m (toInt m x <<< n) ∧ shiftRightLogical m x y = fromInt m (toInt m x >>> n) ∧
    shiftRightArith m x y = fromInt m ((toInt m x).sshiftRight n) := by
  simp only [shiftLeft, shiftRightLogical, shiftRightArith, h, and_self]

theorem shifts_of_no_count (x : F64) (h : shiftCount m y = none) :
    shiftLeft m x y = F64.zero ∧ shiftRightLogical m x y = F64.zero ∧
    shiftRightArith m x y = if (toInt m x).toInt < 0 then F64.neg F64.one else F64.zero := by
  simp only [shiftLeft, shiftRightLogical, shiftRightArith, h, and_self]

end

/-- Settles O25: each instruction is the two-source template of its operation, and a shift takes the branch of its count. -/
theorem bitwiseInstructionsWriteResult : Obligations.BitwiseInstructionsWriteResult := by
  unfold Obligations.BitwiseInstructionsWriteResult
  intro s r a b c x y hr ha hb
  have template (f : F64 → F64 → F64) := writesOnly_binary f hr ha hb
  have sll : WritesOnly (exec (.sll r a b) s) s c _ := template (shiftLeft s.params.bitwise)
  have sla : WritesOnly (exec (.sla r a b) s) s c _ := template (shiftLeft s.params.bitwise)
  have srl : WritesOnly (exec (.srl r a b) s) s c _ := template (shiftRightLogical s.params.bitwise)
  have sra : WritesOnly (exec (.sra r a b) s) s c _ := template (shiftRightArith s.params.bitwise)
  simp only [List.forall_mem_cons]
  refine ⟨?logic, fun low high => ?inside, fun outside => ?outside⟩
  case logic =>
    exact ⟨template (andBits s.params.bitwise), template (orBits s.params.bitwise), template (xorBits s.params.bitwise),
      template (norBits s.params.bitwise), fun _ => nofun⟩
  case inside =>
    obtain ⟨left, logical, arith⟩ := shifts_of_count x (shiftCount_of_inside low high)
    exact ⟨left ▸ sll, left ▸ sla, logical ▸ srl, arith ▸ sra, fun _ => nofun⟩
  case outside =>
    obtain ⟨left, logical, arith⟩ := shifts_of_no_count x (shiftCount_of_outside outside)
    exact ⟨left ▸ sll, left ▸ sla, logical ▸ srl, arith ▸ sra, fun _ => nofun⟩

end Sys2Proof.Machine
end

section
/-! PROOFS. The order of data (42_compare.md R600): a finite datum stands strictly between the infinities, only the two
zeros share a place, and `maximum` and `minimum` follow the order (O12). The compare instructions write the Boolean of
their relation (O26). -/

namespace Sys2Proof.F64

/-! ### Places -/

theorem isNaN_iff (a : F64) : isNaN a = true ↔ a = .nan := by cases a <;> simp [isNaN]

theorem isNaN_eq_decide (a : F64) : isNaN a = decide (a = .nan) := by
  rw [Bool.eq_iff_iff, isNaN_iff, decide_eq_true_iff]

theorem exists_place {a : F64} (h : a ≠ .nan) : ∃ x, place a = some x := by
  cases a with
  | nan => exact absurd rfl h
  | inf | fin => exact ⟨_, rfl⟩

section

variable {a b : F64} {x y : Int}

theorem eq_of_place (ha : place a = some x) (hb : place b = some y) : eq a b = decide (x = y) := by
  simp only [eq, ha, hb]

theorem lt_of_place (ha : place a = some x) (hb : place b = some y) : lt a b = decide (x < y) := by
  simp only [lt, ha, hb]

theorem le_of_place (ha : place a = some x) (hb : place b = some y) : le a b = decide (x ≤ y) := by
  simp only [le, ha, hb]

end

theorem eq_nan (a : F64) : eq a .nan = false := by cases a <;> rfl

theorem lt_nan (a : F64) : lt a .nan = false := by cases a <;> rfl

theorem le_nan (a : F64) : le a .nan = false := by cases a <;> rfl

theorem le_self {a : F64} (h : a ≠ .nan) : le a a = true := by
  obtain ⟨x, hx⟩ := exists_place h
  rw [le_of_place hx hx, decide_eq_true (Int.le_refl x)]

theorem le_of_lt {a b : F64} (h : lt a b = true) : le a b = true := by
  unfold lt at h
  split at h
  next x y hx hy => rw [le_of_place hx hy, decide_eq_true (Int.le_of_lt (of_decide_eq_true h))]
  next => cases h

theorem lt_asymm {a b : F64} (h : lt a b = true) : lt b a = false := by
  unfold lt at h
  split at h
  next x y hx hy => rw [lt_of_place hy hx, decide_eq_false (Int.lt_asymm (of_decide_eq_true h))]
  next => cases h

/-! ### Finite data and the infinities -/

/-- The place of `+Inf`, in units. -/
@[irreducible] def infUnits : Nat := 2 ^ 2100

theorem place_inf (s : Bool) : place (.inf s) = some (if s then -(infUnits : Int) else (infUnits : Int)) := by
  unfold infUnits
  rfl

theorem units_lt_infUnits (e : Fin 2047) (f : BitVec 52) : units e f < infUnits := by
  have hscale := scale_le e
  calc units e f
    _ < 2 ^ 53 * 2 ^ scale e := units_lt e f
    _ = 2 ^ (53 + scale e) := (Nat.pow_add ..).symm
    _ ≤ infUnits := by
      unfold infUnits
      gcongr
      · decide
      · omega

theorem signedUnits_bounds (s : Bool) (e : Fin 2047) (f : BitVec 52) :
    -(infUnits : Int) < signedUnits s e f ∧ signedUnits s e f < infUnits := by
  have h := units_lt_infUnits e f
  unfold signedUnits
  split <;> omega

theorem place_fin (s : Bool) (e : Fin 2047) (f : BitVec 52) : place (.fin s e f) = some (signedUnits s e f) := rfl

theorem inf_compare_fin (s t : Bool) (e : Fin 2047) (f : BitVec 52) :
    eq (.inf s) (.fin t e f) = false ∧ eq (.fin t e f) (.inf s) = false ∧
    lt (.inf s) (.fin t e f) = s ∧ lt (.fin t e f) (.inf s) = !s ∧
    le (.inf s) (.fin t e f) = s ∧ le (.fin t e f) (.inf s) = !s := by
  have hinf := place_inf s
  have hfin := place_fin t e f
  rw [eq_of_place hinf hfin, eq_of_place hfin hinf, lt_of_place hinf hfin, lt_of_place hfin hinf,
    le_of_place hinf hfin, le_of_place hfin hinf]
  have hbounds := signedUnits_bounds t e f
  cases s with
  | false | true => simp; omega

theorem inf_compare_inf (s : Bool) :
    eq (.inf s) (.inf s) = true ∧ eq (.inf s) (.inf (!s)) = false ∧
    lt (.inf s) (.inf s) = false ∧ lt (.inf s) (.inf (!s)) = s ∧
    le (.inf s) (.inf s) = true ∧ le (.inf s) (.inf (!s)) = s := by
  cases s with
  | false | true => decide +kernel

/-! ### Data of one place -/

theorem units_inj {e g : Fin 2047} {f h : BitVec 52} (heq : units e f = units g h) : e = g ∧ f = h := by
  have hround := roundUnits_units false e f Nat.one_pos
  rw [heq, roundUnits_units false g h Nat.one_pos] at hround
  cases hround
  exact ⟨rfl, rfl⟩

theorem natAbs_signedUnits (s : Bool) (e : Fin 2047) (f : BitVec 52) : (signedUnits s e f).natAbs = units e f := by
  unfold signedUnits
  split <;> omega

theorem signedUnits_not (s : Bool) (e : Fin 2047) (f : BitVec 52) : signedUnits (!s) e f = -signedUnits s e f := by
  cases s with
  | false => rfl
  | true => exact (Int.neg_neg _).symm

theorem signedUnits_inj {s t : Bool} {e g : Fin 2047} {f h : BitVec 52}
    (heq : signedUnits s e f = signedUnits t g h) : units e f = units g h ∧ (s = t ∨ s = (!t) ∧ units e f = 0) := by
  have hunits : units e f = units g h := by
    rw [← natAbs_signedUnits s, heq, natAbs_signedUnits]
  refine ⟨hunits, (Bool.eq_or_eq_not s t).imp_right fun hnot => ⟨hnot, ?_⟩⟩
  have hsame : signedUnits t g h = signedUnits t e f := by
    rw [signedUnits, signedUnits, hunits]
  rw [hnot, signedUnits_not, hsame] at heq
  rw [← natAbs_signedUnits t]
  omega

/-- Only the two zeros are different data of one place. -/
theorem eq_or_zeros_of_eq {a b : F64} (h : eq a b = true) : a = b ∨ ∃ s, a = zeroOf (!s) ∧ b = zeroOf s := by
  cases a with
  | nan => cases h
  | inf s =>
    cases b with
    | nan => cases h
    | inf t =>
      rcases Bool.eq_or_eq_not t s with rfl | rfl
      · exact .inl rfl
      · obtain ⟨-, hne, -⟩ := inf_compare_inf s
        rw [hne] at h
        cases h
    | fin t g k =>
      obtain ⟨hne, -⟩ := inf_compare_fin s t g k
      rw [hne] at h
      cases h
  | fin s e f =>
    cases b with
    | nan => cases h
    | inf t =>
      obtain ⟨-, hne, -⟩ := inf_compare_fin t s e f
      rw [hne] at h
      cases h
    | fin t g k =>
      rw [eq_of_place (place_fin s e f) (place_fin t g k), decide_eq_true_iff] at h
      obtain ⟨hunits, hsign⟩ := signedUnits_inj h
      obtain ⟨rfl, rfl⟩ := units_inj hunits
      rcases hsign with rfl | ⟨rfl, hzero⟩
      · exact .inl rfl
      · obtain ⟨rfl, rfl⟩ := units_inj (hzero.trans units_zero.symm)
        exact .inr ⟨t, rfl, rfl⟩

theorem lt_or_eq_or_lt {a b : F64} (ha : a ≠ .nan) (hb : b ≠ .nan) :
    lt a b = true ∨ eq a b = true ∨ lt b a = true := by
  obtain ⟨x, hx⟩ := exists_place ha
  obtain ⟨y, hy⟩ := exists_place hb
  rw [lt_of_place hx hy, eq_of_place hx hy, lt_of_place hy hx]
  simp only [decide_eq_true_iff]
  exact Int.lt_trichotomy x y

/-! ### Minimum and maximum (R423, R424) -/

theorem max_nan (a : F64) : max a .nan = .nan := by cases a <;> rfl

theorem min_nan (a : F64) : min a .nan = .nan := by cases a <;> rfl

/-- `lo` is not above `hi`, and in either order of the operands they are the minimum and the maximum. -/
structure Ordered (lo hi : F64) : Prop where
  le : le lo hi = true
  max_eq : max lo hi = hi
  max_swap : max hi lo = hi
  min_eq : min lo hi = lo
  min_swap : min hi lo = lo

section

variable {a b : F64}

theorem max_of_ne_nan (ha : a ≠ .nan) (hb : b ≠ .nan) :
    max a b = if lt b a then a else if lt a b then b else if a = zero ∨ b = zero then abs a else a := by
  rw [max, isNaN_eq_decide, isNaN_eq_decide, decide_eq_false ha, decide_eq_false hb]
  rfl

theorem min_of_ne_nan (ha : a ≠ .nan) (hb : b ≠ .nan) :
    min a b = if lt a b then a else if lt b a then b
      else if a = zeroOf true ∨ b = zeroOf true then zeroOf true else a := by
  rw [min, isNaN_eq_decide, isNaN_eq_decide, decide_eq_false ha, decide_eq_false hb]
  rfl

theorem ne_nan_of_lt (h : lt a b = true) : a ≠ .nan ∧ b ≠ .nan := by
  constructor
  · rintro rfl
    cases h
  · rintro rfl
    rw [lt_nan] at h
    cases h

theorem Ordered.of_lt (h : lt a b = true) : Ordered a b := by
  obtain ⟨ha, hb⟩ := ne_nan_of_lt h
  have hnot := lt_asymm h
  exact {
    le := le_of_lt h
    max_eq := by simp [max_of_ne_nan ha hb, h, hnot]
    max_swap := by simp [max_of_ne_nan hb ha, h]
    min_eq := by simp [min_of_ne_nan ha hb, h]
    min_swap := by simp [min_of_ne_nan hb ha, h, hnot] }

theorem Ordered.self (ha : a ≠ .nan) : Ordered a a := by
  have hlt : lt a a = false := by
    obtain ⟨x, hx⟩ := exists_place ha
    rw [lt_of_place hx hx, decide_eq_false (Int.lt_irrefl x)]
  have hmax : max a a = a := by
    by_cases hzero : a = zero
    · subst hzero
      decide +kernel
    · simp [max_of_ne_nan ha ha, hlt, hzero]
  have hmin : min a a = a := by
    by_cases hzero : a = zeroOf true
    · subst hzero
      decide +kernel
    · simp [min_of_ne_nan ha ha, hlt, hzero]
  exact ⟨le_self ha, hmax, hmax, hmin, hmin⟩

end

theorem Ordered.zeros : Ordered (zeroOf true) zero := by
  constructor <;> decide +kernel

theorem Ordered.total {a b : F64} (ha : a ≠ .nan) (hb : b ≠ .nan) : Ordered a b ∨ Ordered b a := by
  rcases lt_or_eq_or_lt ha hb with hlt | heq | hgt
  · exact .inl (.of_lt hlt)
  · rcases eq_or_zeros_of_eq heq with rfl | ⟨s, rfl, rfl⟩
    · exact .inl (.self ha)
    · cases s with
      | false => exact .inl .zeros
      | true => exact .inr .zeros
  · exact .inr (.of_lt hgt)

theorem max_comm_min_comm (a b : F64) : max a b = max b a ∧ min a b = min b a := by
  by_cases ha : a = .nan
  · subst ha
    exact ⟨(max_nan b).symm, (min_nan b).symm⟩
  by_cases hb : b = .nan
  · subst hb
    exact ⟨max_nan a, min_nan a⟩
  rcases Ordered.total ha hb with h | h
  · exact ⟨h.max_eq.trans h.max_swap.symm, h.min_eq.trans h.min_swap.symm⟩
  · exact ⟨h.max_swap.trans h.max_eq.symm, h.min_swap.trans h.min_eq.symm⟩

/-- Settles O12: the relations compare places, and of two data that are not NaN one way round is `Ordered`. -/
theorem orderOfData : Obligations.OrderOfData := by
  unfold Obligations.OrderOfData
  refine ⟨fun a => ?nan, fun s t e g f h => ?finite, inf_compare_fin, fun s => ?infinite,
    fun a b => ⟨rfl, rfl, rfl, isNaN_iff a⟩, ?zeros, fun a b => ?operands, Ordered.zeros.max_swap,
    Ordered.zeros.min_swap⟩
  case nan =>
    refine ⟨rfl, eq_nan a, rfl, lt_nan a, rfl, le_nan a, lt_nan a, rfl, le_nan a, rfl, rfl, ?_⟩
    rw [ne, eq_nan, Bool.not_false]
  case finite =>
    have ha := place_fin s e f
    have hb := place_fin t g h
    simp only [eq_of_place ha hb, lt_of_place ha hb, le_of_place ha hb, decide_eq_true_iff, and_self]
  case infinite =>
    obtain ⟨heq, hne, hirrefl, hlt, hle, hle'⟩ := inf_compare_inf s
    exact ⟨heq, hirrefl, hle, hne, hlt, hle'⟩
  case zeros => exact eq_of_place (place_zeroOf true) place_zero
  case operands =>
    obtain ⟨hmax, hmin⟩ := max_comm_min_comm a b
    refine ⟨?propagate, hmax, hmin, fun ha hb => ?extreme⟩
    case propagate =>
      rintro (rfl | rfl)
      · exact ⟨rfl, rfl⟩
      · exact ⟨max_nan a, min_nan a⟩
    case extreme =>
      rcases Ordered.total ha hb with h | h
      · rw [h.max_eq, h.min_eq]
        exact ⟨.inr rfl, h.le, le_self hb, .inl rfl, le_self ha, h.le⟩
      · rw [h.max_swap, h.min_swap]
        exact ⟨.inl rfl, le_self ha, h.le, .inr rfl, h.le, le_self hb⟩

end Sys2Proof.F64

namespace Sys2Proof.Machine

/-- Settles O26: each instruction is the template of its operand count, applied to the Boolean of its relation. -/
theorem compareInstructionsWriteBoolean : Obligations.CompareInstructionsWriteBoolean := by
  unfold Obligations.CompareInstructionsWriteBoolean
  intro s r a b d c x y z hr ha hb hd
  have one (p : F64 → Bool) := writesOnly_unary (fun x => F64.ofBool (p x)) hr ha
  have two (p : F64 → F64 → Bool) := writesOnly_binary (fun x y => F64.ofBool (p x y)) hr ha hb
  have three (p : F64 → F64 → F64 → Bool) := writesOnly_ternary (fun x y z => F64.ofBool (p x y z)) hr ha hb hd
  have snan : WritesOnly (exec (.snan r a) s) s c (F64.ofBool (F64.isNaN x)) := one F64.isNaN
  have snanz : WritesOnly (exec (.snanz r a) s) s c (F64.ofBool (!F64.isNaN x)) := one fun x => !F64.isNaN x
  rw [F64.isNaN_eq_decide] at snan
  rw [F64.isNaN_eq_decide, ← decide_not] at snanz
  simp only [List.forall_mem_cons]
  exact ⟨two F64.eq, two F64.ne, two F64.lt, two F64.le, two F64.gt, two F64.ge, one (withZero F64.eq),
    one (withZero F64.ne), one (withZero F64.lt), one (withZero F64.le), one (withZero F64.gt), one (withZero F64.ge),
    snan, snanz, three (approx s.params.approxEps), three fun x y z => !approx s.params.approxEps x y z,
    two (approxZero s.params.approxEps), two fun x y => !approxZero s.params.approxEps x y, fun _ => nofun⟩

end Sys2Proof.Machine
end

section
/-! PROOFS. The value a network load makes of its reads (43_device.md R707; O21). -/

namespace Sys2Proof.F64

theorem nan_add (a : F64) : add .nan a = .nan := rfl

theorem nan_div (a : F64) : div .nan a = .nan := rfl

theorem nan_max (a : F64) : max .nan a = .nan := rfl

theorem nan_min (a : F64) : min .nan a = .nan := rfl

/-- An operation that absorbs NaN on both sides passes a NaN on through the rest of the fold. -/
theorem foldl_eq_nan {op : F64 → F64 → F64} (left : ∀ a, op .nan a = .nan) (right : ∀ a, op a .nan = .nan)
    {v : F64} {vs : List F64} (h : .nan ∈ v :: vs) : vs.foldl op v = .nan := by
  induction vs generalizing v with
  | nil => exact (List.mem_singleton.1 h).symm
  | cons w ws ih =>
    refine ih (v := op v w) ?_
    rcases List.mem_cons.1 h with rfl | hrest
    · exact List.mem_cons.2 (.inl (left w).symm)
    · rcases List.mem_cons.1 hrest with rfl | hrest
      · exact List.mem_cons.2 (.inl (right v).symm)
      · exact List.mem_cons_of_mem _ hrest

end Sys2Proof.F64

namespace Sys2Proof.Machine

theorem aggregate_eq_nan (m : BatchMode) {vs : List F64} (h : F64.nan ∈ vs) : aggregate m vs = .nan := by
  cases vs with
  | nil => cases h
  | cons v rest =>
    have sum : rest.foldl F64.add v = .nan := F64.foldl_eq_nan F64.nan_add F64.add_nan h
    cases m with
    | sum => exact sum
    | average => simp only [aggregate, sum, F64.nan_div]
    | minimum => exact F64.foldl_eq_nan F64.nan_min F64.min_nan h
    | maximum => exact F64.foldl_eq_nan F64.nan_max F64.max_nan h

/-- Settles O21: the modes are folds by definition, and each fold passes a NaN on. -/
theorem aggregationOfReads : Obligations.AggregationOfReads := by
  unfold Obligations.AggregationOfReads
  exact ⟨fun _ => rfl, fun _ _ => ⟨rfl, rfl, rfl, rfl⟩, fun m _ => aggregate_eq_nan m⟩

end Sys2Proof.Machine
end

section
/-! PROOFS. The instructions on one device (43_device.md): each resolves its operands from the left, and is then one
shared computation on the host's answer for its device, a load or a store (O28 to O32). -/

namespace Sys2Proof.Machine

/-! ### Performing a computation step by step

Once a step has answered, the rest can be performed on its own from the port it left: an error keeps nothing of the
computation but the port (R1110 (1)), so the fatal entry is the same from there. -/

section

variable {α : Type} {s : State} {q q' : Port} {e : RunError}

theorem perform_bind {m : M α} {f : α → M Unit} {a : α} (h : m s = .ok a { s with port := q }) :
    perform (m >>= f) s = perform (f a) { s with port := q } := by
  simp only [perform, bind_of_ok m f s _ a h]

theorem perform_dest {r : RegOp} {c : Cell} {f : Cell → M Unit} (h : s.dest r = .ok c) :
    perform (dest r >>= f) s = perform (f c) s := perform_bind (dest_ok r s c h)

theorem perform_mode {o : ModeOp} {m : BatchMode} {f : BatchMode → M Unit} (h : s.mode o = .ok m) :
    perform (mode o >>= f) s = perform (f m) s := perform_bind (mode_ok o s m h)

theorem perform_value {a : ValOp} {x : F64} {f : F64 → M Unit} (h : s.value a = .ok x) :
    perform (value a >>= f) { s with port := q } = perform (f x) { s with port := q } :=
  perform_bind (value_ok a _ x (((sameOperands_port s q).value a).trans h))

theorem perform_key {k : KeyOp} {kk : Key} {f : Key → M Unit} (h : s.key k = .ok kk) :
    perform (key k >>= f) { s with port := q } = perform (f kk) { s with port := q } :=
  perform_bind (key_ok k _ kk (((sameOperands_port s q).key k).trans h))

theorem perform_pin {d : PinOp} {p : Pin} {h : Option Handle} {f : Option Handle → M Unit} (hp : s.pin d = .ok p)
    (ha : s.port.askPin p = (h, q)) : perform (pin d >>= f) s = perform (f h) { s with port := q } :=
  perform_bind (pin_answer d s p h q hp ha)

theorem perform_resolveId {x : F64} {h : Option Handle} {f : Option Handle → M Unit} (ha : s.port.askId x = (h, q)) :
    perform (resolveId x >>= f) s = perform (f h) { s with port := q } :=
  perform_bind (resolveId_answer s x h q ha)

/-- A computation that raises an error is what `Raises` says, wherever the port stood when it began. -/
theorem raises_of_error {m : M Unit} (h : m { s with port := q } = .error (.raised e) { s with port := q' }) :
    Raises (perform m { s with port := q }) s e q' :=
  perform_raised m _ _ e h

end

/-! ### One device: require it, and make the call (R704) -/

/-- What a load does with the host's answer for its device. -/
def loadFrom (c : Cell) (h : Option Handle) (read : Handle → M F64) : M Unit := do
  let dev ← need h
  let v ← read dev
  setCell c v

/-- What a store, or a clearing of memory, does with the host's answer for its device. -/
def storeTo (h : Option Handle) (write : Handle → M Unit) : M Unit := do
  let dev ← need h
  write dev

section

variable {s : State} {c : Cell} {h : Handle} {read : Handle → M F64} {write : Handle → M Unit} {q q' : Port} {v : F64}
  {e : RunError}

theorem writesWithPort_loadFrom (hread : read h { s with port := q } = .ok v { s with port := q' }) :
    WritesWithPort (perform (loadFrom c (some h) read) { s with port := q }) s c v q' := by
  have heq : perform (loadFrom c (some h) read) { s with port := q } = .next ({ s with port := q' }.writeCell c v) :=
    perform_ok _ _ _ (bind_of_ok (read h) (setCell c) _ _ v hread)
  exact heq ▸ writesWithPort_writeCell s q' c v

theorem raises_loadFrom (hread : read h { s with port := q } = .error (.raised e) { s with port := q' }) :
    Raises (perform (loadFrom c (some h) read) { s with port := q }) s e q' :=
  raises_of_error (bind_of_error (read h) (setCell c) _ _ _ hread)

theorem raises_loadFrom_none : Raises (perform (loadFrom c none read) { s with port := q }) s .deviceNotFound q :=
  raises_of_error rfl

theorem perform_storeTo {t : State} (hwrite : write h { s with port := q } = .ok () t) :
    perform (storeTo (some h) write) { s with port := q } = .next t :=
  perform_ok _ _ _ hwrite

theorem raises_storeTo (hwrite : write h { s with port := q } = .error (.raised e) { s with port := q' }) :
    Raises (perform (storeTo (some h) write) { s with port := q }) s e q' :=
  raises_of_error hwrite

theorem raises_storeTo_none : Raises (perform (storeTo none write) { s with port := q }) s .deviceNotFound q :=
  raises_of_error rfl

end

/-! ### What each instruction is once its operands are resolved (R328) -/

section

variable {s : State} {r : RegOp} {c : Cell} {d : PinOp} {p : Pin} {id a b : ValOp} {i x y : F64} {k : KeyOp} {kk : Key}
  {h : Option Handle} {q : Port}

theorem exec_l (hr : s.dest r = .ok c) (hp : s.pin d = .ok p) (ha : s.port.askPin p = (h, q)) (hk : s.key k = .ok kk) :
    exec (.l r d k) s = perform (loadFrom c h (devRead · kk)) { s with port := q } :=
  (perform_dest hr).trans <| (perform_pin hp ha).trans <| perform_key hk

theorem exec_ls (hr : s.dest r = .ok c) (hp : s.pin d = .ok p) (ha : s.port.askPin p = (h, q)) (hx : s.value a = .ok x)
    (hk : s.key k = .ok kk) :
    exec (.ls r d a k) s = perform (loadFrom c h (devReadSlot · x kk)) { s with port := q } :=
  (perform_dest hr).trans <| (perform_pin hp ha).trans <| (perform_value hx).trans <| perform_key hk

theorem exec_lr (hr : s.dest r = .ok c) (hp : s.pin d = .ok p) (ha : s.port.askPin p = (h, q)) (hk : s.key k = .ok kk)
    (hx : s.value a = .ok x) :
    exec (.lr r d k a) s = perform (loadFrom c h (devReadReagent · kk x)) { s with port := q } :=
  (perform_dest hr).trans <| (perform_pin hp ha).trans <| (perform_key hk).trans <| perform_value hx

theorem exec_ld (hr : s.dest r = .ok c) (hi : s.value id = .ok i) (hk : s.key k = .ok kk)
    (ha : s.port.askId i = (h, q)) :
    exec (.ld r id k) s = perform (loadFrom c h (devRead · kk)) { s with port := q } :=
  (perform_dest hr).trans <| (perform_value hi).trans <| (perform_key hk).trans <| perform_resolveId ha

theorem exec_s (hp : s.pin d = .ok p) (ha : s.port.askPin p = (h, q)) (hk : s.key k = .ok kk) (hx : s.value a = .ok x) :
    exec (.s d k a) s = perform (storeTo h (devWrite · kk x)) { s with port := q } :=
  (perform_pin hp ha).trans <| (perform_key hk).trans <| perform_value hx

theorem exec_ss (hp : s.pin d = .ok p) (ha : s.port.askPin p = (h, q)) (hx : s.value a = .ok x) (hk : s.key k = .ok kk)
    (hy : s.value b = .ok y) :
    exec (.ss d a k b) s = perform (storeTo h (devWriteSlot · x kk y)) { s with port := q } :=
  (perform_pin hp ha).trans <| (perform_value hx).trans <| (perform_key hk).trans <| perform_value hy

theorem exec_sd (hi : s.value id = .ok i) (hk : s.key k = .ok kk) (hx : s.value a = .ok x)
    (ha : s.port.askId i = (h, q)) :
    exec (.sd id k a) s = perform (storeTo h (devWrite · kk x)) { s with port := q } :=
  (perform_value hi).trans <| (perform_key hk).trans <| (perform_value hx).trans <| perform_resolveId ha

theorem exec_get (hr : s.dest r = .ok c) (hp : s.pin d = .ok p) (ha : s.port.askPin p = (h, q))
    (hx : s.value a = .ok x) : exec (.get r d a) s = perform (loadFrom c h (devReadMem · x)) { s with port := q } :=
  (perform_dest hr).trans <| (perform_pin hp ha).trans <| perform_value hx

theorem exec_getd (hr : s.dest r = .ok c) (hi : s.value id = .ok i) (hx : s.value a = .ok x)
    (ha : s.port.askId i = (h, q)) :
    exec (.getd r id a) s = perform (loadFrom c h (devReadMem · x)) { s with port := q } :=
  (perform_dest hr).trans <| (perform_value hi).trans <| (perform_value hx).trans <| perform_resolveId ha

theorem exec_put (hp : s.pin d = .ok p) (ha : s.port.askPin p = (h, q)) (hx : s.value a = .ok x)
    (hy : s.value b = .ok y) :
    exec (.put d a b) s = perform (storeTo h (devWriteMem · x y)) { s with port := q } :=
  (perform_pin hp ha).trans <| (perform_value hx).trans <| perform_value hy

theorem exec_putd (hi : s.value id = .ok i) (hx : s.value a = .ok x) (hy : s.value b = .ok y)
    (ha : s.port.askId i = (h, q)) :
    exec (.putd id a b) s = perform (storeTo h (devWriteMem · x y)) { s with port := q } :=
  (perform_value hi).trans <| (perform_value hx).trans <| (perform_value hy).trans <| perform_resolveId ha

theorem exec_clr (hp : s.pin d = .ok p) (ha : s.port.askPin p = (h, q)) :
    exec (.clr d) s = perform (storeTo h devClearMem) { s with port := q } := perform_pin hp ha

theorem exec_clrd (hi : s.value id = .ok i) (ha : s.port.askId i = (h, q)) :
    exec (.clrd id) s = perform (storeTo h devClearMem) { s with port := q } :=
  (perform_value hi).trans <| perform_resolveId ha

end

/-! ### Whose memory a handle names (R731; log 8) -/

theorem Port.grows_of_askPin {p q : Port} {pin : Pin} {h : Option Handle} (ha : p.askPin pin = (h, q)) :
    Port.Grows p q := by
  simpa only [ha] using p.askPin_grows pin

theorem Port.grows_of_askId {p q : Port} {id : F64} {h : Option Handle} (ha : p.askId id = (h, q)) :
    Port.Grows p q := by
  simpa only [ha] using p.askId_grows id

section

variable {s : State} {q : Port} {h : Handle}

theorem memoryIsStack_of_housing (hon : s.params.dbMemoryIsStack = true) (hdb : s.port.pins.db = some h)
    (hq : Port.Grows s.port q) : ({ s with port := q } : State).memoryIsStack h = true := by
  rw [memoryIsStack_of_grows s h q hq]
  simp [State.memoryIsStack, hon, hdb]

theorem memoryIsStack_of_other (hother : s.params.dbMemoryIsStack = false ∨ s.port.pins.db ≠ some h)
    (hq : Port.Grows s.port q) : ({ s with port := q } : State).memoryIsStack h = false := by
  rw [memoryIsStack_of_grows s h q hq, State.memoryIsStack, Bool.and_eq_false_iff]
  exact hother.imp_right fun hne => beq_false_of_ne hne

end

/-- Settles O28: each load is one call on its resolved device. -/
theorem deviceLoadsWriteAnswer : Obligations.DeviceLoadsWriteAnswer := by
  unfold Obligations.DeviceLoadsWriteAnswer
  intro s r k c kk h q q' v hr hk
  constructor
  · intro d p a x hp ha hx
    rw [exec_l hr hp ha hk, exec_ls hr hp ha hx hk, exec_lr hr hp ha hk hx]
    exact ⟨fun hv => writesWithPort_loadFrom (devRead_value _ h kk v q' hv),
      fun hv => writesWithPort_loadFrom (devReadSlot_value _ h kk x v q' hv),
      fun hv => writesWithPort_loadFrom (devReadReagent_value _ h kk x v q' hv)⟩
  · intro id x hx ha hv
    rw [exec_ld hr hx hk ha]
    exact writesWithPort_loadFrom (devRead_value _ h kk v q' hv)

/-! ### The calls and the answers of the port (R700) -/

section

variable (p : Port)

theorem Port.askRead_calls (c : DevCall) : (p.askRead c).2.calls = c :: p.calls := by
  unfold Port.askRead Port.nextRead
  split <;> rfl

theorem Port.askWrite_calls (c : DevCall) : (p.askWrite c).2.calls = c :: p.calls := by
  unfold Port.askWrite Port.nextWrite
  split <;> rfl

theorem Port.askId_calls (id : F64) : (p.askId id).2.calls = .resolveId id :: p.calls := by
  unfold Port.askId Port.nextId
  split <;> rfl

theorem Port.askSet_calls (t : F64) (n : Option F64) : (p.askSet t n).2.calls = .resolveHash t n :: p.calls := by
  unfold Port.askSet Port.nextSet
  split <;> rfl

variable {p}

theorem Port.askRead_of_tape {c : DevCall} {a : ReadAnswer} {rest : List ReadAnswer} (h : p.readTape = a :: rest) :
    p.askRead c = (a, { p with readTape := rest, calls := c :: p.calls }) := by
  simp only [Port.askRead, Port.nextRead, Port.record, h]

theorem Port.askWrite_of_tape {c : DevCall} {a : WriteAnswer} {rest : List WriteAnswer} (h : p.writeTape = a :: rest) :
    p.askWrite c = (a, { p with writeTape := rest, calls := c :: p.calls }) := by
  simp only [Port.askWrite, Port.nextWrite, Port.record, h]

theorem Port.nextDraw_of_tape {u : Draw} {rest : List Draw} (h : p.drawTape = u :: rest) :
    p.nextDraw = (u, { p with drawTape := rest }) := by
  simp only [Port.nextDraw, h]

theorem Port.askPin_of_tape {i : Fin 6} {a : Option Handle} {rest : List (Option Handle)} (h : p.pinTape = a :: rest) :
    p.askPin (.d i) = (a, { p.record (.resolvePin (.d i)) with pinTape := rest }) := by
  simp only [Port.askPin, Port.nextPin, Port.record, h]

theorem Port.askPin_of_no_tape {i : Fin 6} (h : p.pinTape = []) :
    p.askPin (.d i) = (p.pins.d.get i, p.record (.resolvePin (.d i))) := by
  simp only [Port.askPin, Port.nextPin, Port.record, h]

theorem Port.askId_of_tape {id : F64} {a : Option Handle} {rest : List (Option Handle)} (h : p.idTape = a :: rest) :
    p.askId id = (a, { p.record (.resolveId id) with idTape := rest }) := by
  simp only [Port.askId, Port.nextId, Port.record, h]

theorem Port.askSet_of_tape {t : F64} {n : Option F64} {a : List Handle} {rest : List (List Handle)}
    (h : p.setTape = a :: rest) :
    p.askSet t n = (distinct a, { p.record (.resolveHash t n) with setTape := rest }) := by
  simp only [Port.askSet, Port.nextSet, Port.record, h]

end

theorem mem_distinct {h : Handle} {hs : List Handle} : h ∈ distinct hs ↔ h ∈ hs := by
  induction hs with
  | nil => rfl
  | cons d rest ih =>
    simp only [distinct, List.mem_cons, List.mem_filter, bne_iff_ne, ih]
    tauto

theorem distinct_sublist (hs : List Handle) : (distinct hs).Sublist hs := by
  induction hs with
  | nil => exact .slnil
  | cons d rest ih => exact .cons_cons d (List.filter_sublist.trans ih)

theorem nodup_distinct (hs : List Handle) : (distinct hs).Nodup := by
  induction hs with
  | nil => exact .nil
  | cons d rest ih =>
    exact List.nodup_cons.2 ⟨by simp only [List.mem_filter, bne_self_eq_false, Bool.false_eq_true, and_false,
      not_false_eq_true], ih.filter _⟩

theorem Port.nodup_askSet (p : Port) (t : F64) (n : Option F64) : (p.askSet t n).1.Nodup := by
  unfold Port.askSet Port.nextSet
  split <;> exact nodup_distinct _

/-- Settles O29: a waiting answer is taken from its tape, and each store is one call on its resolved device. -/
theorem deviceStoresCallTheHost : Obligations.DeviceStoresCallTheHost := by
  unfold Obligations.DeviceStoresCallTheHost
  refine ⟨fun p c => ?calls, fun p i => ?pins, fun p id => ?ids, fun p t n => ?sets, ?stores⟩
  case calls =>
    exact ⟨rfl, p.askRead_calls c, p.askWrite_calls c, fun _ _ => Port.askRead_of_tape,
      fun _ _ => Port.askWrite_of_tape, fun _ _ => Port.nextDraw_of_tape⟩
  case pins => exact ⟨rfl, Port.askPin_of_no_tape, fun _ _ => Port.askPin_of_tape⟩
  case ids => exact ⟨p.askId_calls id, fun _ _ => Port.askId_of_tape⟩
  case sets =>
    refine ⟨p.askSet_calls t n, p.nodup_askSet t n, fun a rest htape => ?_⟩
    rw [Port.askSet_of_tape htape]
    exact ⟨fun _ => mem_distinct, distinct_sublist a, rfl⟩
  case stores =>
    intro s k a kk v h q q' hk hv
    constructor
    · intro d p o x hp ha hx
      rw [exec_s hp ha hk hv, exec_ss hp ha hx hk hv]
      exact ⟨fun hd => perform_storeTo (devWrite_done _ h kk v q' hd),
        fun hd => perform_storeTo (devWriteSlot_done _ h kk x v q' hd)⟩
    · intro id x hx ha hd
      rw [exec_sd hx hk hv ha]
      exact perform_storeTo (devWrite_done _ h kk v q' hd)

/-- Settles O30: whichever way the device is resolved, the call on its memory is the host's. -/
theorem deviceMemoryCallsTheHost : Obligations.DeviceMemoryCallsTheHost := by
  unfold Obligations.DeviceMemoryCallsTheHost
  intro s h q q' hother r addr a c x v hr hx hv
  constructor
  · intro d p hp ha
    have host := memoryIsStack_of_other hother (Port.grows_of_askPin ha)
    rw [exec_get hr hp ha hx, exec_put hp ha hx hv, exec_clr hp ha]
    exact ⟨fun w hw => writesWithPort_loadFrom (devReadMem_host _ h x w q' host hw),
      fun hd => perform_storeTo (devWriteMem_host _ h x v q' host hd), perform_storeTo (devClearMem_host _ h host)⟩
  · intro id i hi ha
    have host := memoryIsStack_of_other hother (Port.grows_of_askId ha)
    rw [exec_getd hr hi hx ha, exec_putd hi hx hv ha, exec_clrd hi ha]
    exact ⟨fun w hw => writesWithPort_loadFrom (devReadMem_host _ h x w q' host hw),
      fun hd => perform_storeTo (devWriteMem_host _ h x v q' host hd), perform_storeTo (devClearMem_host _ h host)⟩

/-! ### The housing's memory (R731) -/

section

variable {s : State} {c : Cell} {h : Handle} {q : Port} {x v : F64} {j : Nat} {e : RunError}

theorem writesWithPort_stack (housing : ({ s with port := q } : State).memoryIsStack h = true)
    (hj : stackAddr x = .ok j) :
    WritesWithPort (perform (loadFrom c (some h) (devReadMem · x)) { s with port := q }) s c (s.stack.read j) q :=
  writesWithPort_loadFrom (devReadMem_stack _ h x housing j hj)

theorem storeTo_stack (housing : ({ s with port := q } : State).memoryIsStack h = true) (hwf : s.stack.wf = true)
    (hj : stackAddr x = .ok j) :
    ∃ t, perform (storeTo (some h) (devWriteMem · x v)) { s with port := q } = .next t ∧ t.stack.read j = v ∧
      StackKeptBut s t j ∧ { t with stack := s.stack } = { s with port := q } :=
  ⟨_, perform_storeTo (devWriteMem_stack _ h x v housing j hj), Memory.read_write_same _ 0 j v hwf,
    fun b hb => Memory.read_write_other _ j b v hb, rfl⟩

theorem raises_stackAddr (housing : ({ s with port := q } : State).memoryIsStack h = true)
    (he : stackAddr x = .error (.raised e)) :
    Raises (perform (loadFrom c (some h) (devReadMem · x)) { s with port := q }) s e q ∧
    Raises (perform (storeTo (some h) (devWriteMem · x v)) { s with port := q }) s e q :=
  ⟨raises_loadFrom (devReadMem_stack_error _ h x housing _ he),
    raises_storeTo (devWriteMem_stack_error _ h x v housing _ he)⟩

theorem storeTo_clear_stack (housing : ({ s with port := q } : State).memoryIsStack h = true) :
    ∃ t, perform (storeTo (some h) devClearMem) { s with port := q } = .next t ∧ (∀ j, t.stack.read j = F64.zero) ∧
      { t with stack := s.stack } = { s with port := q } :=
  ⟨_, perform_storeTo (devClearMem_stack _ h housing), fun _ => rfl, rfl⟩

end

/-- Settles O31: with the handle of `db`, however resolved, each call on a device's memory is one on the stack. -/
theorem housingMemoryIsTheStack : Obligations.HousingMemoryIsTheStack := by
  unfold Obligations.HousingMemoryIsTheStack
  intro s h q hon hdb hwf r addr a c x v hr hx hv d p id i hp hi
  have byPin (ha : s.port.askPin p = (some h, q)) := memoryIsStack_of_housing hon hdb (Port.grows_of_askPin ha)
  have byId (ha : s.port.askId i = (some h, q)) := memoryIsStack_of_housing hon hdb (Port.grows_of_askId ha)
  refine ⟨fun j hj => ⟨fun ha => ?get, fun ha => ?getd, fun ha => ?put, fun ha => ?putd⟩,
    fun e he => ⟨fun ha => ?pinError, fun ha => ?idError⟩, fun ha => ?clr, fun ha => ?clrd⟩
  case get => exact exec_get hr hp ha hx ▸ writesWithPort_stack (byPin ha) hj
  case getd => exact exec_getd hr hi hx ha ▸ writesWithPort_stack (byId ha) hj
  case put => exact exec_put hp ha hx hv ▸ storeTo_stack (byPin ha) hwf hj
  case putd => exact exec_putd hi hx hv ha ▸ storeTo_stack (byId ha) hwf hj
  case pinError =>
    rw [exec_get hr hp ha hx, exec_put hp ha hx hv]
    exact raises_stackAddr (byPin ha) he
  case idError =>
    rw [exec_getd hr hi hx ha, exec_putd hi hx hv ha]
    exact raises_stackAddr (byId ha) he
  case clr => exact exec_clr hp ha ▸ storeTo_clear_stack (byPin ha)
  case clrd => exact exec_clrd hi ha ▸ storeTo_clear_stack (byId ha)

/-- Settles O32: an answer without a device ends the computation before its call, and a failed call ends it there. -/
theorem deviceErrorsAreRaised : Obligations.DeviceErrorsAreRaised := by
  unfold Obligations.DeviceErrorsAreRaised
  refine ⟨rfl, rfl, fun s r k a b c kk x y hr hk hx hy => ⟨?unbound, ?unknown, ?pinFails, ?idFails⟩⟩
  case unbound =>
    intro d p q hp ha
    simp only [List.forall_mem_cons, exec_l hr hp ha hk, exec_s hp ha hk hx, exec_ls hr hp ha hx hk,
      exec_ss hp ha hx hk hy, exec_lr hr hp ha hk hx, exec_get hr hp ha hx, exec_put hp ha hx hy, exec_clr hp ha]
    exact ⟨raises_loadFrom_none, raises_storeTo_none, raises_loadFrom_none, raises_storeTo_none, raises_loadFrom_none,
      raises_loadFrom_none, raises_storeTo_none, raises_storeTo_none, fun _ => nofun⟩
  case unknown =>
    intro id z q hz ha
    simp only [List.forall_mem_cons, exec_ld hr hz hk ha, exec_sd hz hk hx ha, exec_getd hr hz hx ha,
      exec_putd hz hx hy ha, exec_clrd hz ha]
    exact ⟨raises_loadFrom_none, raises_storeTo_none, raises_loadFrom_none, raises_storeTo_none, raises_storeTo_none,
      fun _ => nofun⟩
  case pinFails =>
    intro d p h q q' f hp ha
    have host hother := memoryIsStack_of_other (h := h) hother (Port.grows_of_askPin ha)
    rw [exec_l hr hp ha hk, exec_ls hr hp ha hx hk, exec_s hp ha hk hx, exec_ss hp ha hx hk hy, exec_lr hr hp ha hk hx,
      exec_get hr hp ha hx, exec_put hp ha hx hy]
    exact ⟨fun hf => raises_loadFrom (devRead_fails _ h kk q' f hf),
      fun hf => raises_loadFrom (devReadSlot_fails _ h kk x q' f hf),
      fun hf => raises_storeTo (devWrite_fails _ h kk x q' f hf),
      fun hf => raises_storeTo (devWriteSlot_fails _ h kk x y q' f hf),
      fun hf => raises_loadFrom (devReadReagent_fails _ h kk x q' _ hf),
      fun hother hf => raises_loadFrom (devReadMem_host_fails _ h x q' _ (host hother) hf),
      fun hother hf => raises_storeTo (devWriteMem_host_fails _ h x y q' _ (host hother) hf)⟩
  case idFails =>
    intro id z h q q' f hz ha
    have host hother := memoryIsStack_of_other (h := h) hother (Port.grows_of_askId ha)
    rw [exec_ld hr hz hk ha, exec_sd hz hk hx ha, exec_getd hr hz hx ha, exec_putd hz hx hy ha]
    exact ⟨fun hf => raises_loadFrom (devRead_fails _ h kk q' f hf),
      fun hf => raises_storeTo (devWrite_fails _ h kk x q' f hf),
      fun hother hf => raises_loadFrom (devReadMem_host_fails _ h x q' _ (host hother) hf),
      fun hother hf => raises_storeTo (devWriteMem_host_fails _ h x y q' _ (host hother) hf)⟩

end Sys2Proof.Machine
end

section
/-! PROOFS. The network instructions (43_device.md R707, R708): each resolves its operands from the left, and is then the
shared load from, or store to, every handle of one set (O33, O34). -/

namespace Sys2Proof.Machine

/-! ### The shared load and store, performed -/

section

variable {s : State} {c : Cell} {t : F64} {n : Option F64} {m : BatchMode} {read : Handle → M F64}
  {write : Handle → M Unit} {call : Handle → DevCall} {hs : List Handle} {vs : List F64} {q q' : Port} {f : DevFail}

theorem writesWithPort_loadBatch (hread : ∀ h, read h = readCall (call h)) (hset : s.port.askSet t n = (hs, q))
    (ha : q.reads call hs = .ok (vs, q')) :
    WritesWithPort (perform (loadBatch c t n m read) s) s c (aggregate m vs) q' :=
  perform_ok _ _ _ (loadBatch_ok s q' c t n m read call hread hs q vs hset ha) ▸
    writesWithPort_writeCell s q' c (aggregate m vs)

theorem raises_loadBatch (hread : ∀ h, read h = readCall (call h)) (hset : s.port.askSet t n = (hs, q))
    (ha : q.reads call hs = .error (f, q')) : Raises (perform (loadBatch c t n m read) s) s (failError f) q' :=
  raises_of_error (loadBatch_error s q' f c t n m read call hread hs q hset ha)

theorem perform_storeBatch (hwrite : ∀ h, write h = writeCall (call h)) (hset : s.port.askSet t n = (hs, q))
    (ha : q.writes call hs = .ok q') : perform (storeBatch t n write) s = .next { s with port := q' } :=
  perform_ok _ _ _ (storeBatch_ok s q' t n write call hwrite hs q hset ha)

theorem raises_storeBatch (hwrite : ∀ h, write h = writeCall (call h)) (hset : s.port.askSet t n = (hs, q))
    (ha : q.writes call hs = .error (f, q')) : Raises (perform (storeBatch t n write) s) s (failError f) q' :=
  raises_of_error (storeBatch_error s q' f t n write call hwrite hs q hset ha)

end

/-! ### What each instruction is once its operands are resolved (R328) -/

section

variable {s : State} {r : RegOp} {c : Cell} {th nm sl a : ValOp} {t n i v : F64} {k : KeyOp} {kk : Key} {mo : ModeOp}
  {m : BatchMode}

theorem exec_lb (hr : s.dest r = .ok c) (ht : s.value th = .ok t) (hk : s.key k = .ok kk) (hm : s.mode mo = .ok m) :
    exec (.lb r th k mo) s = perform (loadBatch c t none m (devRead · kk)) s :=
  (perform_dest hr).trans <| (perform_value ht).trans <| (perform_key hk).trans <| perform_mode hm

theorem exec_lbn (hr : s.dest r = .ok c) (ht : s.value th = .ok t) (hn : s.value nm = .ok n) (hk : s.key k = .ok kk)
    (hm : s.mode mo = .ok m) :
    exec (.lbn r th nm k mo) s = perform (loadBatch c t (some n) m (devRead · kk)) s :=
  (perform_dest hr).trans <| (perform_value ht).trans <| (perform_value hn).trans <| (perform_key hk).trans <|
    perform_mode hm

theorem exec_lbs (hr : s.dest r = .ok c) (ht : s.value th = .ok t) (hi : s.value sl = .ok i) (hk : s.key k = .ok kk)
    (hm : s.mode mo = .ok m) :
    exec (.lbs r th sl k mo) s = perform (loadBatch c t none m (devReadSlot · i kk)) s :=
  (perform_dest hr).trans <| (perform_value ht).trans <| (perform_value hi).trans <| (perform_key hk).trans <|
    perform_mode hm

theorem exec_lbns (hr : s.dest r = .ok c) (ht : s.value th = .ok t) (hn : s.value nm = .ok n) (hi : s.value sl = .ok i)
    (hk : s.key k = .ok kk) (hm : s.mode mo = .ok m) :
    exec (.lbns r th nm sl k mo) s = perform (loadBatch c t (some n) m (devReadSlot · i kk)) s :=
  (perform_dest hr).trans <| (perform_value ht).trans <| (perform_value hn).trans <| (perform_value hi).trans <|
    (perform_key hk).trans <| perform_mode hm

theorem exec_sb (ht : s.value th = .ok t) (hk : s.key k = .ok kk) (hv : s.value a = .ok v) :
    exec (.sb th k a) s = perform (storeBatch t none (devWrite · kk v)) s :=
  (perform_value ht).trans <| (perform_key hk).trans <| perform_value hv

theorem exec_sbn (ht : s.value th = .ok t) (hn : s.value nm = .ok n) (hk : s.key k = .ok kk) (hv : s.value a = .ok v) :
    exec (.sbn th nm k a) s = perform (storeBatch t (some n) (devWrite · kk v)) s :=
  (perform_value ht).trans <| (perform_value hn).trans <| (perform_key hk).trans <| perform_value hv

theorem exec_sbs (ht : s.value th = .ok t) (hi : s.value sl = .ok i) (hk : s.key k = .ok kk) (hv : s.value a = .ok v) :
    exec (.sbs th sl k a) s = perform (storeBatch t none (devWriteSlot · i kk v)) s :=
  (perform_value ht).trans <| (perform_value hi).trans <| (perform_key hk).trans <| perform_value hv

end

/-- Settles O33: each network load is the shared one, of its handle set and its kind of read. -/
theorem batchLoadsAggregate : Obligations.BatchLoadsAggregate := by
  unfold Obligations.BatchLoadsAggregate
  intro s r th nm sl k m c t n i kk mm hs q hr ht hn hi hk hm
  have read (h : Handle) : devRead h kk = readCall (.read h kk) := rfl
  have readSlot (h : Handle) : devReadSlot h i kk = readCall (.readSlot h i kk) := rfl
  rw [exec_lb hr ht hk hm, exec_lbs hr ht hi hk hm, exec_lbn hr ht hn hk hm, exec_lbns hr ht hn hi hk hm]
  exact ⟨fun hset => ⟨fun _ _ => writesWithPort_loadBatch read hset, fun _ _ => writesWithPort_loadBatch readSlot hset,
      fun _ _ => raises_loadBatch read hset, fun _ _ => raises_loadBatch readSlot hset⟩,
    fun hset => ⟨fun _ _ => writesWithPort_loadBatch read hset, fun _ _ => writesWithPort_loadBatch readSlot hset,
      fun _ _ => raises_loadBatch read hset, fun _ _ => raises_loadBatch readSlot hset⟩⟩

/-- Settles O34: each network store is the shared one, of its handle set and its kind of write. -/
theorem batchStoresWriteEveryMatch : Obligations.BatchStoresWriteEveryMatch := by
  unfold Obligations.BatchStoresWriteEveryMatch
  intro s th nm sl a k t n i v kk hs q ht hn hi hv hk
  have write (h : Handle) : devWrite h kk v = writeCall (.write h kk v) := rfl
  have writeSlot (h : Handle) : devWriteSlot h i kk v = writeCall (.writeSlot h i kk v) := rfl
  rw [exec_sb ht hk hv, exec_sbs ht hi hk hv, exec_sbn ht hn hk hv]
  exact ⟨fun hset => ⟨fun _ => perform_storeBatch write hset, fun _ => perform_storeBatch writeSlot hset,
      fun _ _ => raises_storeBatch write hset, fun _ _ => raises_storeBatch writeSlot hset⟩,
    fun hset => ⟨fun _ => perform_storeBatch write hset, fun _ _ => raises_storeBatch write hset⟩⟩

end Sys2Proof.Machine
end

section
/-! PROOFS. Tests of a pin (43_device.md R726, R727; 45_control.md R970 to R975): the instruction writes, or decides its
branch by, the one answer for its pin (O43). -/

namespace Sys2Proof.Machine

section

variable {s : State} {r : RegOp} {c : Cell} {d : PinOp} {p : Pin} {h : Option Handle} {q : Port}
  {test : Option Handle → Bool} {go : F64 → M Unit} {a : ValOp} {v : F64} {t : Nat}

theorem exec_sdse (hr : s.dest r = .ok c) (hp : s.pin d = .ok p) (ha : s.port.askPin p = (h, q)) :
    exec (.sdse r d) s = perform (setCell c (F64.ofBool h.isSome)) { s with port := q } :=
  (perform_dest hr).trans <| perform_pin hp ha

theorem exec_sdns (hr : s.dest r = .ok c) (hp : s.pin d = .ok p) (ha : s.port.askPin p = (h, q)) :
    exec (.sdns r d) s = perform (setCell c (F64.ofBool h.isNone)) { s with port := q } :=
  (perform_dest hr).trans <| perform_pin hp ha

theorem writesWithPort_setCell : WritesWithPort (perform (setCell c v) { s with port := q }) s c v q :=
  writesWithPort_writeCell s q c v

theorem ofBool_isSome (h : Option Handle) : F64.ofBool h.isSome = if h ≠ none then F64.one else F64.zero := by
  cases h <;> rfl

theorem ofBool_isNone (h : Option Handle) : F64.ofBool h.isNone = if h = none then F64.one else F64.zero := by
  cases h <;> rfl

theorem perform_branchPin_not_taken (hp : s.pin d = .ok p) (ha : s.port.askPin p = (h, q)) (hv : s.value a = .ok v)
    (hn : test h = false) : perform (branchPin test go d a) s = .next { s with port := q } :=
  perform_ok _ _ _ (by rw [branchPin_eq s v test go d a p h q hp ha hv, hn]; rfl)

theorem branchPin_taken (hp : s.pin d = .ok p) (ha : s.port.askPin p = (h, q)) (hv : s.value a = .ok v)
    (ht : test h = true) : branchPin test go d a s = go v { s with port := q } := by
  rw [branchPin_eq s v test go d a p h q hp ha hv, ht, if_pos rfl]

theorem target_port (s : State) (q : Port) (v : F64) : ({ s with port := q } : State).target v = s.target v := rfl

theorem perform_branchPin_to (hp : s.pin d = .ok p) (ha : s.port.askPin p = (h, q)) (hv : s.value a = .ok v)
    (hj : s.target v = .ok t) (ht : test h = true) :
    perform (branchPin test jumpTo d a) s = .next { s with npc := some t, port := q } ∧
    Links (perform (branchPin test callTo d a) s) s t q :=
  ⟨perform_ok _ _ _ ((branchPin_taken hp ha hv ht).trans (jumpTo_ok _ v t ((target_port s q v).trans hj))),
    links_of_call s t q _ ((branchPin_taken hp ha hv ht).trans (callTo_ok _ v t ((target_port s q v).trans hj)))⟩

theorem perform_branchPin_by (hp : s.pin d = .ok p) (ha : s.port.askPin p = (h, q)) (hv : s.value a = .ok v)
    (hj : s.target (F64.add (F64.ofNat s.pc) v) = .ok t) (ht : test h = true) :
    perform (branchPin test jumpBy d a) s = .next { s with npc := some t, port := q } :=
  perform_ok _ _ _ ((branchPin_taken hp ha hv ht).trans (jumpBy_ok _ v t ((target_port s q _).trans hj)))

end

/-- Settles O43: whether the host's answer is a handle decides what is written and whether the branch is taken. -/
theorem pinTestsUseOneAnswer : Obligations.PinTestsUseOneAnswer := by
  unfold Obligations.PinTestsUseOneAnswer
  intro s d p h q hp ha
  refine ⟨fun r c hr => ?sets, fun a v hv => ?branches⟩
  case sets =>
    rw [exec_sdse hr hp ha, exec_sdns hr hp ha, ofBool_isSome, ofBool_isNone]
    exact ⟨writesWithPort_setCell, writesWithPort_setCell⟩
  case branches =>
    have bound (hb : h ≠ none) : h.isSome = true := Option.isSome_iff_ne_none.2 hb
    have free (hn : h = none) : h.isNone = true := Option.isNone_iff_eq_none.2 hn
    have stay (test : Option Handle → Bool) (go : F64 → M Unit) (hn : test h = false) :=
      perform_branchPin_not_taken (go := go) hp ha hv hn
    simp only [List.forall_mem_cons]
    refine ⟨fun hn => ?unbound, fun hb => ?found, fun t ht => ?absolute, fun t ht => ?relative⟩
    case unbound =>
      have hsome : h.isSome = false := Option.isSome_eq_false_iff.2 (free hn)
      exact ⟨stay _ jumpTo hsome, stay _ callTo hsome, stay _ jumpBy hsome, fun _ => nofun⟩
    case found =>
      have hnone : h.isNone = false := Option.isNone_eq_false_iff.2 (bound hb)
      exact ⟨stay _ jumpTo hnone, stay _ callTo hnone, stay _ jumpBy hnone, fun _ => nofun⟩
    case absolute =>
      exact ⟨fun hb => perform_branchPin_to hp ha hv ht (bound hb),
        fun hn => perform_branchPin_to hp ha hv ht (free hn)⟩
    case relative =>
      exact ⟨fun hb => perform_branchPin_by hp ha hv ht (bound hb),
        fun hn => perform_branchPin_by hp ha hv ht (free hn)⟩

end Sys2Proof.Machine
end

section
/-! PROOFS. The stack instructions (44_stack.md): each resolves its operands, checks one address (R211), and is then a
write of a stack cell, of a register, or of both (O35 to O37); pushes and pops keep a list of the values on the stack
(O38). -/

namespace Sys2Proof.F64

/-! ### The integers that `sp` counts -/

theorem ofNat_zero : ofNat 0 = zero := by
  rw [ofNat, ofRatio, Nat.zero_mul]
  exact roundUnits_zero false Nat.one_pos

theorem units_one : units 1023 0 = unitsPerOne := unitsPerOne_eq.symm ▸ by decide +kernel

theorem truncInt_ofNat {n : Nat} (h : n ≤ 2 ^ 53) : truncInt (ofNat n) = some (n : Int) := by
  rw [ofNat_eq_ofInt]
  exact truncInt_ofInt (i := n) h

/-- Up to 2^53 the predecessor of an integer is computed exactly: both operands are data, and so is the difference. -/
theorem ofNat_succ_sub_one {n : Nat} (h : n + 1 ≤ 2 ^ 53) : sub (ofNat (n + 1)) one = ofNat n := by
  obtain ⟨e, f, hdatum, hunits⟩ := roundUnits_exact false (exists_units_eq_mul_unitsPerOne h)
  have hdifference : signedUnits false e f + signedUnits true 1023 0 = ((n * unitsPerOne : Nat) : Int) := by
    simp only [signedUnits, hunits, units_one, Nat.add_one_mul, if_true, if_false, Bool.false_eq_true]
    omega
  calc sub (ofNat (n + 1)) one
    _ = add (.fin false e f) (.fin true 1023 0) := congrArg (sub · one) hdatum
    _ = roundUnits false (n * unitsPerOne) 1 := by
      rw [add_fin, hdifference]
      split
      next hzero => rw [Int.natCast_eq_zero.1 hzero, roundUnits_zero false Nat.one_pos]; rfl
      next => rw [Int.natAbs_natCast, decide_eq_false (Int.not_lt.2 (Int.natCast_nonneg _))]
    _ = ofNat n := rfl

end Sys2Proof.F64

namespace Sys2Proof.Machine

/-! ### Reading the state on the way: its answer, or its error -/

section

variable {α : Type} {s : State} {get : State → Except Exn α} {f : α → M Unit} {e : RunError}

theorem perform_look {a : α} (h : get s = .ok a) : perform (look get >>= f) s = perform (f a) s :=
  perform_bind (look_apply get s a h)

theorem raises_look (h : get s = .error (.raised e)) : Raises (perform (look get >>= f) s) s e s.port :=
  raises_of_error (bind_of_error (look get) f s s _ (look_error get s _ h))

theorem raises_dest {r : RegOp} {f : Cell → M Unit} (h : s.dest r = .error (.raised e)) :
    Raises (perform (dest r >>= f) s) s e s.port := raises_look h

theorem raises_value {a : ValOp} {f : F64 → M Unit} (h : s.value a = .error (.raised e)) :
    Raises (perform (value a >>= f) s) s e s.port := raises_look h

end

/-! ### What each instruction is once its operands are resolved (R810 to R813) -/

section

variable {s : State} {r : RegOp} {c : Cell} {a b : ValOp} {v x : F64} {i : Nat} {e : RunError}

theorem exec_push (hv : s.value a = .ok v) (hi : stackAddr (s.readCell .sp) = .ok i) :
    exec (.push a) s = .next ({ s with stack := s.stack.write i v }.writeCell .sp (F64.ofNat (i + 1))) :=
  (perform_value hv).trans (perform_look hi)

theorem raises_push_sp (hv : s.value a = .ok v) (he : stackAddr (s.readCell .sp) = .error (.raised e)) :
    Raises (exec (.push a) s) s e s.port :=
  (perform_value hv).trans (raises_look he)

theorem exec_pop (hr : s.dest r = .ok c) (hi : stackAddr (F64.sub (s.readCell .sp) F64.one) = .ok i) :
    exec (.pop r) s = .next ((s.writeCell .sp (F64.ofNat i)).writeCell c (s.stack.read i)) :=
  (perform_dest hr).trans (perform_look hi)

theorem raises_pop_sp (hr : s.dest r = .ok c)
    (he : stackAddr (F64.sub (s.readCell .sp) F64.one) = .error (.raised e)) : Raises (exec (.pop r) s) s e s.port :=
  (perform_dest hr).trans (raises_look he)

theorem exec_peek (hr : s.dest r = .ok c) (hi : stackAddr (F64.sub (s.readCell .sp) F64.one) = .ok i) :
    exec (.peek r) s = .next (s.writeCell c (s.stack.read i)) :=
  (perform_dest hr).trans (perform_look hi)

theorem raises_peek_sp (hr : s.dest r = .ok c)
    (he : stackAddr (F64.sub (s.readCell .sp) F64.one) = .error (.raised e)) : Raises (exec (.peek r) s) s e s.port :=
  (perform_dest hr).trans (raises_look he)

theorem exec_poke (hx : s.value a = .ok x) (hv : s.value b = .ok v) (hi : stackAddr x = .ok i) :
    exec (.poke a b) s = .next { s with stack := s.stack.write i v } :=
  (perform_value hx).trans <| (perform_value hv).trans (perform_look hi)

theorem raises_poke_source (hx : s.value a = .ok x) (he : s.value b = .error (.raised e)) :
    Raises (exec (.poke a b) s) s e s.port :=
  (perform_value hx).trans (raises_value he)

theorem raises_poke_address (hx : s.value a = .ok x) (hv : s.value b = .ok v)
    (he : stackAddr x = .error (.raised e)) : Raises (exec (.poke a b) s) s e s.port :=
  (perform_value hx).trans <| (perform_value hv).trans (raises_look he)

end

/-! ### Frames: two register writes, and one stack cell -/

theorem SameButRegisters.trans {s t u : State} (hst : SameButRegisters s t) (htu : SameButRegisters t u) :
    SameButRegisters s u := by
  unfold SameButRegisters at *
  rw [← hst, ← htu]

theorem registersKept_writeCell_writeCell (s : State) (c d : Cell) (v w : F64) :
    RegistersKept s ((s.writeCell c v).writeCell d w) [c, d] := by
  intro b hb
  have hc : s.home b ≠ s.home c := hb c (by simp)
  have hd : (s.writeCell c v).home b ≠ (s.writeCell c v).home d := by simpa using hb d (by simp)
  rw [State.readCell_writeCell_other _ d b w hd, State.readCell_writeCell_other s c b v hc]

theorem sameButRegisters_writeCell_writeCell (s : State) (c d : Cell) (v w : F64) :
    SameButRegisters s ((s.writeCell c v).writeCell d w) :=
  (s.sameButRegisters_writeCell c v).trans ((s.writeCell c v).sameButRegisters_writeCell d w)

theorem readCell_writeCell_writeCell {s : State} {c d : Cell} (h : s.home c ≠ s.home d) (v w : F64) :
    ((s.writeCell c v).writeCell d w).readCell c = v := by
  rw [State.readCell_writeCell_other _ d c w (by simpa using h), State.readCell_writeCell_same s c c v rfl]

theorem stackKeptBut_write (s : State) (i : Nat) (v : F64) : StackKeptBut s { s with stack := s.stack.write i v } i :=
  fun b hb => Memory.read_write_other s.stack i b v hb

/-- Settles O35: the frame is that of one stack cell and one register. -/
theorem pushWritesCellThenMoves : Obligations.PushWritesCellThenMoves := by
  unfold Obligations.PushWritesCellThenMoves
  refine fun s a => ⟨fun v i hwf hv hi => ?completes, fun e => raises_value, fun v e => raises_push_sp⟩
  refine ⟨_, exec_push hv hi, ?cell, ?stack, State.readCell_writeCell_same _ .sp .sp _ rfl,
    State.registersKept_writeCell { s with stack := s.stack.write i v } .sp _, ?rest⟩
  case cell => rw [State.writeCell_stack, Memory.read_write_same _ 0 i v hwf]
  case stack =>
    intro b hb
    rw [State.writeCell_stack]
    exact stackKeptBut_write s i v b hb
  case rest =>
    rw [State.writeCell_stack]
    exact State.sameButRegisters_writeCell _ .sp _

/-- Settles O36: the destination is written after `sp`, so it is the one that keeps its value where both are one cell. -/
theorem popReadsCellAfterMove : Obligations.PopReadsCellAfterMove := by
  unfold Obligations.PopReadsCellAfterMove
  refine fun s r => ⟨fun c i hr hi => ?completes, fun e => raises_dest, fun c e => raises_pop_sp⟩
  exact ⟨_, exec_pop hr hi, State.readCell_writeCell_same _ c c _ rfl,
    fun hne => readCell_writeCell_writeCell hne _ _, registersKept_writeCell_writeCell s .sp c _ _, fun a => by simp,
    sameButRegisters_writeCell_writeCell s .sp c _ _⟩

/-- Settles O37: `peek` is one register write, and `poke` one write of a stack cell. -/
theorem peekAndPokeLeaveSp : Obligations.PeekAndPokeLeaveSp := by
  unfold Obligations.PeekAndPokeLeaveSp
  refine ⟨fun s r => ⟨fun c i hr hi => ?peek, fun e => raises_dest, fun c e => raises_peek_sp⟩,
    fun s a b => ⟨fun x v i hwf hx hv hi => ?poke, fun e => raises_value, fun x e => raises_poke_source,
      fun x v e => raises_poke_address⟩⟩
  case peek => exact exec_peek hr hi ▸ writesOnly_writeCell s c _
  case poke => exact ⟨_, exec_poke hx hv hi, Memory.read_write_same _ 0 i v hwf, stackKeptBut_write s i v, rfl⟩

/-! ### The values on the stack (R814) -/

/-- The stack holds `vs`, the last value pushed first: `sp` is their number, and each value stands in the cell whose
index is the number of values below it. -/
structure HoldsValues (s : State) (vs : List F64) : Prop where
  wf : s.stack.wf = true
  sp : s.readCell .sp = F64.ofNat vs.length
  fits : vs.length ≤ stackCapacity
  cells : ∀ v below, v :: below <:+ vs → s.stack.read below.length = v

theorem stackAddr_ofNat {n : Nat} (h : n < stackCapacity) : stackAddr (F64.ofNat n) = .ok n :=
  (stackAddr_eq_ok _ n).2 ⟨F64.truncInt_ofNat (by unfold stackCapacity at h; omega), h⟩

theorem dest_gpr (s : State) (n : Fin 18) : s.dest (.reg (.gpr n 0)) = .ok (.x n) := s.cellOf_gpr (Nat.zero_le _)

theorem home_sp_ne_x_zero (s : State) : s.home .sp ≠ s.home (.x 0) := by
  simp only [State.home]
  split <;> decide

section

variable {s : State} {vs : List F64}

theorem holdsValues_nil (hwf : s.stack.wf = true) (hsp : s.readCell .sp = F64.zero) : HoldsValues s [] where
  wf := hwf
  sp := hsp.trans F64.ofNat_zero.symm
  fits := Nat.zero_le _
  cells := fun _ _ h => nomatch List.suffix_nil.1 h

/-- A push adds its value on top. -/
theorem HoldsValues.push (h : HoldsValues s vs) (room : vs.length < stackCapacity) (v : F64) :
    ∃ t, exec (.push (.num v)) s = .next t ∧ HoldsValues t (v :: vs) := by
  have hi : stackAddr (s.readCell .sp) = .ok vs.length := h.sp ▸ stackAddr_ofNat room
  refine ⟨_, exec_push rfl hi, ?_, State.readCell_writeCell_same _ .sp .sp _ rfl, room, fun w below hsuffix => ?_⟩
  · rw [State.writeCell_stack]
    exact Memory.write_wf s.stack _ v room h.wf
  · rw [State.writeCell_stack]
    rcases List.suffix_cons_iff.1 hsuffix with htop | hbelow
    · obtain ⟨rfl, rfl⟩ := List.cons.inj htop
      exact Memory.read_write_same _ 0 _ _ h.wf
    · have hne : below.length ≠ vs.length := Nat.ne_of_lt hbelow.length_le
      exact (stackKeptBut_write s vs.length v _ hne).trans (h.cells w below hbelow)

/-- A pop takes the top value off and into the destination. -/
theorem HoldsValues.pop {v : F64} (h : HoldsValues s (v :: vs)) :
    ∃ t, exec (.pop (.reg (.gpr 0 0))) s = .next t ∧ t.readCell (.x 0) = v ∧ HoldsValues t vs := by
  have room : vs.length < stackCapacity := h.fits
  have hbelow : F64.sub (s.readCell .sp) F64.one = F64.ofNat vs.length := by
    rw [h.sp]
    exact F64.ofNat_succ_sub_one (by unfold stackCapacity at room; omega)
  have hi : stackAddr (F64.sub (s.readCell .sp) F64.one) = .ok vs.length := hbelow ▸ stackAddr_ofNat room
  refine ⟨_, exec_pop (dest_gpr s 0) hi, ?value, ?wf,
    readCell_writeCell_writeCell (home_sp_ne_x_zero s) _ _, Nat.le_of_lt room, ?cells⟩
  case value => exact (State.readCell_writeCell_same _ _ _ _ rfl).trans (h.cells v vs List.suffix_rfl)
  case wf => simpa using h.wf
  case cells => simpa using fun w below hsuffix => h.cells w below (hsuffix.trans (List.suffix_cons v vs))

end

/-! ### Runs of pushes and pops -/

theorem execAll_cons_of_next {i : Instr} {is : List Instr} {s t : State} (h : exec i s = .next t) :
    execAll (i :: is) s = execAll is t := by
  rw [execAll, h]

theorem execAll_append_of_next {is js : List Instr} {s t : State} (h : execAll is s = .next t) :
    execAll (is ++ js) s = execAll js t := by
  induction is generalizing s with
  | nil => cases h; rfl
  | cons i is ih =>
    cases hi : exec i s with
    | next u =>
      rw [List.cons_append, execAll_cons_of_next hi]
      exact ih (execAll_cons_of_next hi ▸ h)
    | fault f => simp [execAll, hi] at h
    | refused r => simp [execAll, hi] at h

theorem HoldsValues.pushes {s : State} {vs : List F64} (h : HoldsValues s vs) (ws : List F64)
    (room : ws.length + vs.length ≤ stackCapacity) :
    ∃ t, execAll (ws.map fun w => .push (.num w)) s = .next t ∧ HoldsValues t (ws.reverse ++ vs) := by
  induction ws generalizing s vs with
  | nil => exact ⟨s, rfl, h⟩
  | cons w ws ih =>
    rw [List.length_cons] at room
    obtain ⟨t, hpush, ht⟩ := h.push (by omega) w
    obtain ⟨u, hpushes, hu⟩ := ih ht (by rw [List.length_cons]; omega)
    exact ⟨u, (execAll_cons_of_next hpush).trans hpushes, by simpa using hu⟩

theorem HoldsValues.pops {s : State} {vs : List F64} (h : HoldsValues s vs) {k : Nat} {v : F64}
    (hv : vs[k]? = some v) :
    ∃ t, execAll (List.replicate (k + 1) (.pop (.reg (.gpr 0 0)))) s = .next t ∧ t.readCell (.x 0) = v ∧
      HoldsValues t (vs.drop (k + 1)) := by
  induction vs generalizing s k with
  | nil => cases hv
  | cons w below ih =>
    obtain ⟨t, hpop, htop, ht⟩ := h.pop
    cases k with
    | zero => exact ⟨t, execAll_cons_of_next hpop, htop.trans (Option.some.inj hv), ht⟩
    | succ k =>
      obtain ⟨u, hpops, hu⟩ := ih ht hv
      exact ⟨u, (execAll_cons_of_next hpop).trans hpops, hu⟩

/-- Settles O38: the pushes put the values on the stack in reverse, and the pops take them off from the top. -/
theorem lastInFirstOut : Obligations.LastInFirstOut := by
  unfold Obligations.LastInFirstOut
  intro s vs k v hwf hsp hlen hv
  obtain ⟨t, hpushes, ht⟩ := (holdsValues_nil hwf hsp).pushes vs hlen
  rw [List.append_nil] at ht
  obtain ⟨u, hpops, hvalue, hu⟩ := ht.pops hv
  refine ⟨u, (execAll_append_of_next hpushes).trans hpops, hvalue, ?_⟩
  rw [hu.sp, List.length_drop, List.length_reverse]

end Sys2Proof.Machine
end

section
/-! PROOFS. Jumps, calls and branches (45_control.md R900 to R969): a test and the instruction forms it decides, said
once for all of them; a form is its jump when the test holds, and nothing otherwise (O39 to O42, O44). -/

namespace Sys2Proof.Machine

/-! ### The target check (R901) -/

section

variable {s : State} {v : F64} {e : Exn}

theorem State.len_of_program {records : List Record} (h : s.program = some records) : s.len = records.length := by
  rw [State.len, h]

theorem State.len_of_no_program (h : s.program = none) : s.len = 0 := by rw [State.len, h]

theorem State.target_of_no_line (h : ∀ t : Nat, F64.truncInt v = some (t : Int) → s.len ≤ t) :
    s.target v = .error (.raised .invalidProgramCounter) := by
  cases ht : s.target v with
  | error e => rw [s.target_eq_error v e ht]
  | ok t =>
    obtain ⟨hv, hlt⟩ := (s.target_eq_ok v t).1 ht
    exact absurd (h t hv) (Nat.not_le.2 hlt)

theorem raises_jumpTo (h : s.target v = .error e) :
    Raises (perform (jumpTo v) s) s .invalidProgramCounter s.port :=
  raises_look (s.target_eq_error v e h ▸ h)

theorem raises_callTo (h : s.target v = .error e) :
    Raises (perform (callTo v) s) s .invalidProgramCounter s.port :=
  raises_look (s.target_eq_error v e h ▸ h)

theorem raises_jumpBy (h : s.target (F64.add (F64.ofNat s.pc) v) = .error e) :
    Raises (perform (jumpBy v) s) s .invalidProgramCounter s.port :=
  raises_look (s.target_eq_error _ e h ▸ h)

end

/-! ### A test and the forms it decides (R900) -/

/-- A test and the instructions that transfer control when it holds. -/
structure Transfer where
  test : Bool
  absolute : Instr
  linking : Option Instr
  relative : Instr

/-- The absolute form, and the linking form where there is one: those whose target is the operand's value. -/
def Transfer.direct (r : Transfer) : List Instr := r.absolute :: r.linking.toList

/-- Each form, with `v` as its last operand's value, is its jump when the test holds, and nothing otherwise. -/
structure Transfer.Decides (r : Transfer) (s : State) (v : F64) : Prop where
  absolute : exec r.absolute s = if r.test then perform (jumpTo v) s else .next s
  linking : ∀ i ∈ r.linking, exec i s = if r.test then perform (callTo v) s else .next s
  relative : exec r.relative s = if r.test then perform (jumpBy v) s else .next s

section

variable {s : State} {v : F64} {taken : Bool}

theorem perform_of_eq_ite {m go : M Unit} (h : m s = if taken then go s else .ok () s) :
    perform m s = if taken then perform go s else .next s := by
  cases taken with
  | false => exact perform_ok m s s h
  | true => exact congrArg (fun r : EStateM.Result Exn State Unit => perform (fun _ => r) s) h

theorem Transfer.Decides.of_template {m : (F64 → M Unit) → M Unit} {i j k : Instr}
    (template : ∀ go, m go s = if taken then go v s else .ok () s) (absolute : exec i s = perform (m jumpTo) s)
    (linking : exec j s = perform (m callTo) s) (relative : exec k s = perform (m jumpBy) s) :
    Transfer.Decides ⟨taken, i, some j, k⟩ s v where
  absolute := absolute.trans (perform_of_eq_ite (template jumpTo))
  linking _ hi := Option.some.inj hi ▸ linking.trans (perform_of_eq_ite (template callTo))
  relative := relative.trans (perform_of_eq_ite (template jumpBy))

end

section

variable (s : State) (a b d e : ValOp) (x y z : F64)

/-- The branches on operands `a`, `b`, `d` with the values `x`, `y`, `z` to the target `e` (R920 to R969). -/
def branches : List Transfer :=
  let eps := s.params.approxEps
  [⟨F64.eq x y, .beq a b e, some (.beqal a b e), .breq a b e⟩,
    ⟨F64.ne x y, .bne a b e, some (.bneal a b e), .brne a b e⟩,
    ⟨F64.lt x y, .blt a b e, some (.bltal a b e), .brlt a b e⟩,
    ⟨F64.le x y, .ble a b e, some (.bleal a b e), .brle a b e⟩,
    ⟨F64.gt x y, .bgt a b e, some (.bgtal a b e), .brgt a b e⟩,
    ⟨F64.ge x y, .bge a b e, some (.bgeal a b e), .brge a b e⟩,
    ⟨F64.eq x F64.zero, .beqz a e, some (.beqzal a e), .breqz a e⟩,
    ⟨F64.ne x F64.zero, .bnez a e, some (.bnezal a e), .brnez a e⟩,
    ⟨F64.lt x F64.zero, .bltz a e, some (.bltzal a e), .brltz a e⟩,
    ⟨F64.le x F64.zero, .blez a e, some (.blezal a e), .brlez a e⟩,
    ⟨F64.gt x F64.zero, .bgtz a e, some (.bgtzal a e), .brgtz a e⟩,
    ⟨F64.ge x F64.zero, .bgez a e, some (.bgezal a e), .brgez a e⟩,
    ⟨F64.isNaN x, .bnan a e, none, .brnan a e⟩,
    ⟨approx eps x y z, .bap a b d e, some (.bapal a b d e), .brap a b d e⟩,
    ⟨!approx eps x y z, .bna a b d e, some (.bnaal a b d e), .brna a b d e⟩,
    ⟨approxZero eps x y, .bapz a b e, some (.bapzal a b e), .brapz a b e⟩,
    ⟨!approxZero eps x y, .bnaz a b e, some (.bnazal a b e), .brnaz a b e⟩]

/-- The jumps (R910 to R912), which are always taken, and the branches. -/
def transfers : List Transfer := ⟨true, .j e, some (.jal e), .jr e⟩ :: branches s a b d e x y z

end

section

variable {s : State} {a b d e : ValOp} {x y z v : F64}

theorem branches_decides (ha : s.value a = .ok x) (hb : s.value b = .ok y) (hd : s.value d = .ok z)
    (he : s.value e = .ok v) : ∀ r ∈ branches s a b d e x y z, r.Decides s v := by
  have one (p : F64 → Bool) (go : F64 → M Unit) := branch1_eq s v p go a e x ha he
  have two (p : F64 → F64 → Bool) (go : F64 → M Unit) := branch2_eq s v p go a b e x y ha hb he
  have three (p : F64 → F64 → F64 → Bool) (go : F64 → M Unit) := branch3_eq s v p go a b d e x y z ha hb hd he
  have nan : Transfer.Decides ⟨F64.isNaN x, .bnan a e, none, .brnan a e⟩ s v :=
    ⟨perform_of_eq_ite (one F64.isNaN jumpTo), fun _ => nofun, perform_of_eq_ite (one F64.isNaN jumpBy)⟩
  let eps := s.params.approxEps
  simp only [branches, List.forall_mem_cons]
  exact ⟨.of_template (two F64.eq) rfl rfl rfl, .of_template (two F64.ne) rfl rfl rfl,
    .of_template (two F64.lt) rfl rfl rfl, .of_template (two F64.le) rfl rfl rfl,
    .of_template (two F64.gt) rfl rfl rfl, .of_template (two F64.ge) rfl rfl rfl,
    .of_template (one (withZero F64.eq)) rfl rfl rfl, .of_template (one (withZero F64.ne)) rfl rfl rfl,
    .of_template (one (withZero F64.lt)) rfl rfl rfl, .of_template (one (withZero F64.le)) rfl rfl rfl,
    .of_template (one (withZero F64.gt)) rfl rfl rfl, .of_template (one (withZero F64.ge)) rfl rfl rfl, nan,
    .of_template (three (approx eps)) rfl rfl rfl, .of_template (three fun x y z => !approx eps x y z) rfl rfl rfl,
    .of_template (two (approxZero eps)) rfl rfl rfl, .of_template (two fun x y => !approxZero eps x y) rfl rfl rfl,
    fun _ => nofun⟩

theorem transfers_decides (ha : s.value a = .ok x) (hb : s.value b = .ok y) (hd : s.value d = .ok z)
    (he : s.value e = .ok v) : ∀ r ∈ transfers s a b d e x y z, r.Decides s v := by
  have jump (go : F64 → M Unit) : (value e >>= go) s = go v s := bind_of_ok _ _ s s v (value_ok e s v he)
  exact List.forall_mem_cons.2 ⟨Transfer.Decides.of_template (taken := true) jump rfl rfl rfl,
    branches_decides ha hb hd he⟩

end

namespace Transfer.Decides

variable {r : Transfer} {s : State} {v : F64} {t : Nat} {e : Exn}

theorem jumps (h : r.Decides s v) (ht : s.target v = .ok t) (taken : r.test = true) :
    exec r.absolute s = .next { s with npc := some t } := by
  rw [h.absolute, if_pos taken]
  exact perform_ok _ _ _ (jumpTo_ok s v t ht)

theorem links (h : r.Decides s v) (ht : s.target v = .ok t) (taken : r.test = true) {i : Instr} (hi : i ∈ r.linking) :
    Links (exec i s) s t s.port := by
  rw [h.linking i hi, if_pos taken]
  exact links_of_call s t s.port _ (callTo_ok s v t ht)

theorem jumpsBy (h : r.Decides s v) (ht : s.target (F64.add (F64.ofNat s.pc) v) = .ok t) (taken : r.test = true) :
    exec r.relative s = .next { s with npc := some t } := by
  rw [h.relative, if_pos taken]
  exact perform_ok _ _ _ (jumpBy_ok s v t ht)

theorem stays (h : r.Decides s v) (notTaken : r.test = false) :
    ∀ i ∈ r.direct ++ [r.relative], exec i s = .next s := by
  have skips {o : Host.Outcome State Fault Refusal} : (if r.test then o else .next s) = .next s := by
    rw [notTaken]; rfl
  simp only [Transfer.direct, List.mem_append, List.mem_cons, Option.mem_toList, List.not_mem_nil, or_false]
  rintro i ((rfl | hi) | rfl)
  · rw [h.absolute, skips]
  · rw [h.linking i hi, skips]
  · rw [h.relative, skips]

theorem raises (h : r.Decides s v) (ht : s.target v = .error e) (taken : r.test = true) :
    ∀ i ∈ r.direct, Raises (exec i s) s .invalidProgramCounter s.port := by
  simp only [Transfer.direct, List.mem_cons, Option.mem_toList]
  rintro i (rfl | hi)
  · rw [h.absolute, if_pos taken]
    exact raises_jumpTo ht
  · rw [h.linking i hi, if_pos taken]
    exact raises_callTo ht

theorem raisesBy (h : r.Decides s v) (ht : s.target (F64.add (F64.ofNat s.pc) v) = .error e) (taken : r.test = true) :
    Raises (exec r.relative s) s .invalidProgramCounter s.port := by
  rw [h.relative, if_pos taken]
  exact raises_jumpBy ht

end Transfer.Decides

/-! ### The forms of all transfers -/

/-- Settles O39: the statement's list is the absolute forms of `transfers`, each of which is its jump. -/
theorem absoluteJumpsTaken : Obligations.AbsoluteJumpsTaken := by
  unfold Obligations.AbsoluteJumpsTaken
  intro s a b d e x y z v t ha hb hd he ht
  refine (List.forall_mem_map (l := transfers s a b d e x y z) (f := fun r => (r.absolute, r.test))).2 ?_
  exact fun r hr => (transfers_decides ha hb hd he r hr).jumps ht

/-- Settles O40: the statement's list is the linking forms of `transfers`, each of which is its call. -/
theorem linkingJumpsTaken : Obligations.LinkingJumpsTaken := by
  unfold Obligations.LinkingJumpsTaken
  intro s a b d e x y z v t ha hb hd he ht eps p hp
  replace hp : p ∈ (transfers s a b d e x y z).filterMap fun r => r.linking.map (·, r.test) := hp
  obtain ⟨r, hr, hlink⟩ := List.mem_filterMap.1 hp
  obtain ⟨i, hi, rfl⟩ := Option.map_eq_some_iff.1 hlink
  exact fun taken => (transfers_decides ha hb hd he r hr).links ht taken hi

/-- Settles O41: the statement's list is the relative forms of `transfers`, each of which jumps from its own line. -/
theorem relativeJumpsTaken : Obligations.RelativeJumpsTaken := by
  unfold Obligations.RelativeJumpsTaken
  intro s a b d e x y z v t ha hb hd he ht
  refine (List.forall_mem_map (l := transfers s a b d e x y z) (f := fun r => (r.relative, r.test))).2 ?_
  exact fun r hr => (transfers_decides ha hb hd he r hr).jumpsBy ht

/-- Settles O42: no form of a branch computes a target when its test fails. -/
theorem branchesNotTakenDoNothing : Obligations.BranchesNotTakenDoNothing := by
  unfold Obligations.BranchesNotTakenDoNothing
  intro s a b d e x y z v ha hb hd he
  refine (List.forall_mem_map (l := branches s a b d e x y z) (f := fun r => (r.test, r.direct ++ [r.relative]))).2 ?_
  exact fun r hr => (branches_decides ha hb hd he r hr).stays

section

variable {s : State} {d : PinOp} {p : Pin} {h : Option Handle} {q : Port} {test : Option Handle → Bool} {a : ValOp}
  {v : F64} {e : Exn}

theorem perform_branchPin_taken {go : F64 → M Unit} (hp : s.pin d = .ok p) (ha : s.port.askPin p = (h, q))
    (hv : s.value a = .ok v) (ht : test h = true) :
    perform (branchPin test go d a) s = perform (go v) { s with port := q } :=
  (perform_pin hp ha).trans <| (perform_value hv).trans <| by rw [if_pos ht]

theorem raises_branchPin_direct (hp : s.pin d = .ok p) (ha : s.port.askPin p = (h, q)) (hv : s.value a = .ok v)
    (ht : test h = true) (hj : s.target v = .error e) :
    Raises (perform (branchPin test jumpTo d a) s) s .invalidProgramCounter q ∧
    Raises (perform (branchPin test callTo d a) s) s .invalidProgramCounter q := by
  rw [perform_branchPin_taken hp ha hv ht, perform_branchPin_taken hp ha hv ht]
  exact ⟨raises_jumpTo ((target_port s q v).trans hj), raises_callTo ((target_port s q v).trans hj)⟩

theorem raises_branchPin_by (hp : s.pin d = .ok p) (ha : s.port.askPin p = (h, q)) (hv : s.value a = .ok v)
    (ht : test h = true) (hj : s.target (F64.add (F64.ofNat s.pc) v) = .error e) :
    Raises (perform (branchPin test jumpBy d a) s) s .invalidProgramCounter q := by
  rw [perform_branchPin_taken hp ha hv ht]
  exact raises_jumpBy ((target_port s q _).trans hj)

end

/-- Settles O44: a taken form is its jump, which raises the error of its target check before it writes. -/
theorem jumpTargetsAreChecked : Obligations.JumpTargetsAreChecked := by
  unfold Obligations.JumpTargetsAreChecked
  refine ⟨fun _ _ => State.len_of_program, fun _ => State.len_of_no_program,
    fun s v => ⟨fun hnone => ?noIndex, fun t ht => ⟨fun outside => ?outside, fun hpos hlt => ?inside⟩⟩,
    fun s a b d e x y z v ha hb hd he => ⟨fun err herr => ?direct, fun err herr => ?relative⟩,
    fun s d p h q e v hp ha hv => ⟨fun err herr => ?pinDirect, fun err herr => ?pinRelative⟩⟩
  case noIndex =>
    exact State.target_of_no_line fun n hn => by rw [hnone] at hn; cases hn
  case outside =>
    refine State.target_of_no_line fun n hn => ?_
    have : t = n := Option.some.inj (ht.symm.trans hn)
    omega
  case inside =>
    exact (s.target_eq_ok v _).2 ⟨by rw [ht, Int.toNat_of_nonneg hpos], by omega⟩
  case direct =>
    refine (List.forall_mem_map (l := transfers s a b d e x y z) (f := fun r => (r.test, r.direct))).2 ?_
    exact fun r hr => (transfers_decides ha hb hd he r hr).raises herr
  case relative =>
    refine (List.forall_mem_map (l := transfers s a b d e x y z) (f := fun r => (r.relative, r.test))).2 ?_
    exact fun r hr => (transfers_decides ha hb hd he r hr).raisesBy herr
  case pinDirect =>
    cases h with
    | none =>
      obtain ⟨jump, call⟩ := raises_branchPin_direct (test := Option.isNone) hp ha hv rfl herr
      exact List.forall_mem_cons.2 ⟨jump, List.forall_mem_singleton.2 call⟩
    | some h =>
      obtain ⟨jump, call⟩ := raises_branchPin_direct (test := Option.isSome) hp ha hv rfl herr
      exact List.forall_mem_cons.2 ⟨jump, List.forall_mem_singleton.2 call⟩
  case pinRelative =>
    cases h with
    | none => exact raises_branchPin_by (test := Option.isNone) hp ha hv rfl herr
    | some h => exact raises_branchPin_by (test := Option.isSome) hp ha hv rfl herr

end Sys2Proof.Machine
end

section
/-! PROOFS. The system instructions (46_system.md): what each does to the status and the name tables, and that a table
gives back what was bound in it (O45, O46). -/

namespace Sys2Proof.Machine

/-! ### Suspending (R1002) -/

section

variable {s : State} {a : ValOp} {v : F64}

theorem sleepTime_eq_ite (v : F64) :
    sleepTime v = if F64.isNaN v = true ∨ F64.lt v F64.zero = true then F64.zero else v :=
  if_congr (Bool.or_eq_true _ _).to_iff rfl rfl

theorem exec_sleep (hv : s.value a = .ok v) : exec (.sleep a) s = .next (s.sleepFor (sleepTime v)) :=
  perform_value hv

end

/-- Settles O45: `sleep` waits for the value of its operand, the error of which it raises, and the others resolve no
operand. -/
theorem systemInstructions : Obligations.SystemInstructions := by
  unfold Obligations.SystemInstructions
  refine fun s => ⟨rfl, fun d n => rfl, rfl, fun a v hv => ?sleeps, fun a e => raises_value, ?halts⟩
  case sleeps =>
    rw [exec_sleep hv, sleepTime_eq_ite]
    rfl
  case halts => exact raises_of_error (m := raise .halt) rfl

/-! ### Binding a name (R1010, R1011) -/

/-- Binding a name that has no entry yet, as `define` does: an entry that is there stays. -/
def bindOnce {α : Type} (table : List (Ident × α)) (name : Ident) (v : α) : List (Ident × α) :=
  if (lookupIn table name).isNone then bindIn table name v else table

section

variable {α : Type} (t : List (Ident × α)) (n : Ident) (v : α)

theorem bindOnce_of_unbound (h : lookupIn t n = none) : bindOnce t n v = bindIn t n v :=
  if_pos (Option.isNone_iff_eq_none.2 h)

theorem bindOnce_of_bound {w : α} (h : lookupIn t n = some w) : bindOnce t n v = t :=
  if_neg (by simp [h])

theorem lookupIn_bindOnce_same : lookupIn (bindOnce t n v) n = some ((lookupIn t n).getD v) := by
  cases h : lookupIn t n with
  | none => rw [bindOnce_of_unbound t n v h, lookupIn_bindIn_same, Option.getD_none]
  | some w => rw [bindOnce_of_bound t n v h, h, Option.getD_some]

theorem lookupIn_bindOnce_other {m : Ident} (hm : m ≠ n) : lookupIn (bindOnce t n v) m = lookupIn t m := by
  cases h : lookupIn t n with
  | none => rw [bindOnce_of_unbound t n v h, lookupIn_bindIn_other t n m v hm]
  | some w => rw [bindOnce_of_bound t n v h]

end

theorem exec_aliasOp (s : State) (n : Ident) (t : Target) :
    exec (.aliasOp n t) s = .next { s with aliases := bindIn s.aliases n t } := rfl

theorem exec_define (s : State) (n : Ident) (v : F64) :
    exec (.define n v) s = .next { s with defines := bindOnce s.defines n v } := rfl

/-- Settles O46: each instruction writes its own table, `alias` whatever the name had before, `define` only where it had
nothing. -/
theorem symbolBinding : Obligations.SymbolBinding := by
  unfold Obligations.SymbolBinding
  refine fun s => ⟨fun n t => ?aliasBinds, fun n v => ?defineBinds⟩
  case aliasBinds =>
    exact ⟨_, exec_aliasOp s n t, lookupIn_bindIn_same s.aliases n t,
      fun m => lookupIn_bindIn_other s.aliases n m t, rfl⟩
  case defineBinds =>
    exact ⟨_, exec_define s n v, lookupIn_bindOnce_same s.defines n v,
      fun m => lookupIn_bindOnce_other s.defines n v, rfl⟩

end Sys2Proof.Machine
end

section
/-! PROOFS. Fatal errors and the ends of a tick (60_exceptions.md R1110, R1111; 70_reset_and_hazards.md R1200, R1201):
the fatal entry (O57), when a tick begins and stops (O49), that it ends within its budget (O50), and that a crashed core
stays crashed (O53). -/

namespace Sys2Proof.F64

theorem not_ge_of_lt {a b : F64} (h : lt a b = true) : ge a b = false := by
  unfold lt at h
  split at h
  next x y hx hy =>
    exact (le_of_place hy hx).trans (decide_eq_false (Int.not_le.2 (of_decide_eq_true h)))
  next => cases h

end Sys2Proof.F64

namespace Sys2Proof.Machine

/-! ### The fatal entry -/

/-- No error was raised on the way from `s` to `t`: the crashed flag and the error record are as before, and every
device call made stays made. -/
structure NoErrorBetween (s t : State) : Prop where
  crashed : t.crashed = s.crashed
  error : t.error = s.error
  port : Port.Grows s.port t.port

/-- A change that leaves the crashed flag, the error record and the device port alone. -/
theorem NoErrorBetween.of_same {s t : State} (crashed : t.crashed = s.crashed) (error : t.error = s.error)
    (port : t.port = s.port) : NoErrorBetween s t :=
  ⟨crashed, error, port ▸ Port.Grows.refl s.port⟩

/-- No elementary change raises an error: only the fatal entry writes the crashed flag and the error record. -/
theorem elementary_noErrorBetween : Elementary NoErrorBetween where
  refl _ := .of_same rfl rfl rfl
  trans _ _ _ hst htu := ⟨htu.crashed.trans hst.crashed, htu.error.trans hst.error, hst.port.trans htu.port⟩
  cell s c v := .of_same (s.writeCell_crashed c v) (s.writeCell_error c v) (s.writeCell_port c v)
  npc _ _ := .of_same rfl rfl rfl
  stack _ _ _ _ := .of_same rfl rfl rfl
  clear _ := .of_same rfl rfl rfl
  port _ _ grows := ⟨rfl, rfl, grows⟩

/-- An instruction completes without an error, or raises one after some device calls. -/
theorem exec_completes_or_raises {i : Instr} {s t : State} (h : exec i s = .next t) :
    NoErrorBetween s t ∨ t.crashed = true ∧ ∃ e p, Raises (exec i s) s e p ∧ Port.Grows s.port p := by
  have hcases := exec_cases elementary_noErrorBetween i s t
    (fun _ => .of_same rfl rfl rfl) (fun _ _ _ => .of_same rfl rfl rfl)
    (fun _ _ _ => .of_same rfl rfl rfl) (fun _ _ _ => .of_same rfl rfl rfl) h
  rcases hcases with completed | ⟨e, u, made, rfl⟩
  · exact .inl completed
  · exact .inr ⟨State.fatal_crashed _ e, e, u.port, h, made.port⟩

/-- A raised error ends the tick on its line (R1110 (2), (3); R150 (4)). -/
theorem step_of_raises {u : State} {r : Record} {e : RunError} {p : Port} (tick : u.inTick = true)
    (budget : u.ic ≠ u.params.tickBudget) (fetched : u.fetch = some r)
    (raised : Raises (exec r.instr u.begin) u.begin e p) :
    Sys2Proof.Machine.step u = .next (({ u.begin with port := p } : State).fatal e).leaveTick := by
  have crashed := State.fatal_crashed { u.begin with port := p } e
  rw [← State.sequence_of_crashed _ crashed]
  exact step_of_next tick budget fetched raised

/-- Settles O57: an instruction without an error leaves the crashed flag and the error record alone, and after an error
the sequencer leaves the program counter on the faulting line and ends the tick. -/
theorem fatalEntryWritesNothingElse : Obligations.FatalEntryWritesNothingElse := by
  unfold Obligations.FatalEntryWritesNothingElse
  refine ⟨fun e => ?codes, fun i s t running executed =>
    ⟨fun crashed => ?raised, fun live => ?completed, ?ends⟩⟩
  case codes => cases e <;> rfl
  case raised =>
    rcases exec_completes_or_raises executed with completed | ⟨-, raised⟩
    · exact absurd (crashed.symm.trans (completed.crashed.trans running)) (by decide)
    · exact raised
  case completed =>
    rcases exec_completes_or_raises executed with completed | ⟨crashed, -⟩
    · exact completed.error
    · exact absurd (crashed.symm.trans live) (by decide)
  case ends =>
    rintro u r e p rfl rfl fetched tick budget raised
    exact step_of_raises tick budget fetched raised

/-! ### When a tick begins, and its soft stop -/

section

variable {s : State} {now : F64}

/-- `run_tick` does nothing without a program, on a crashed core, or before the resume time (R1200 (1), (2)). -/
theorem State.runTick_does_nothing
    (h : s.status = .noProgram ∨ s.status = .crashed ∨ ∃ t, s.status = .sleeping t ∧ F64.lt now t = true) :
    s.runTick now = s := by
  rcases h with hst | hst | ⟨t, hst, early⟩
  · simp only [State.runTick, hst]
  · simp only [State.runTick, hst]
  · simp [State.runTick, hst, F64.not_ge_of_lt early]

theorem State.runTick_starts
    (h : s.status = .ready ∨ s.status = .yielded ∨ ∃ t, s.status = .sleeping t ∧ F64.ge now t = true) :
    s.runTick now = s.startTick now := by
  rcases h with hst | hst | ⟨t, hst, due⟩
  · simp only [State.runTick, hst]
  · simp only [State.runTick, hst]
  · simp [State.runTick, hst, due]

end

/-- Settles O49: the host's command runs `run_tick`, and the budget's end the soft stop. -/
theorem tickBeginsAndStops : Obligations.TickBeginsAndStops := by
  unfold Obligations.TickBeginsAndStops
  refine ⟨fun s now rest tick next => ?begins, fun s => step_of_budget_spent⟩
  rw [step_of_command tick next]
  exact ⟨fun idle => congrArg _ (State.runTick_does_nothing (s := { s with commands := rest }) idle),
    fun starts => congrArg _ (State.runTick_starts (s := { s with commands := rest }) starts)⟩

/-! ### A tick ends within its budget -/

/-- How many more instructions the budget of the tick under way allows (R1201). -/
def State.stepsLeft (s : State) : Nat := s.params.tickBudget - s.ic

theorem State.stepsLeft_lt {s t : State} (budget : s.ic + 1 ≤ s.params.tickBudget) (counted : t.ic = s.ic + 1)
    (params : t.params = s.params) : t.stepsLeft < s.stepsLeft := by
  unfold State.stepsLeft
  rw [counted, params]
  omega

theorem State.fetchOutside_inTick (s : State) : s.fetchOutside.inTick = false := by
  unfold State.fetchOutside
  split <;> rfl

theorem step_ne_refused (s : State) (x : Refusal) : Sys2Proof.Machine.step s ≠ .refused x := by
  intro h
  cases tick : s.inTick with
  | false =>
    cases next : s.commands with
    | nil => exact nomatch (step_of_no_command tick next).symm.trans h
    | cons c rest => exact nomatch (step_of_command tick next).symm.trans h
  | true =>
    by_cases spent : s.ic = s.params.tickBudget
    · exact nomatch (step_of_budget_spent tick spent).symm.trans h
    · cases fetched : s.fetch with
      | none => exact nomatch (step_of_no_line tick spent fetched).symm.trans h
      | some r =>
        cases executed : exec r.instr s.begin with
        | next u => exact nomatch (step_of_next tick spent fetched executed).symm.trans h
        | fault f => exact nomatch (step_of_fault tick spent fetched executed).symm.trans h
        | refused y => exact exec_ne_refused _ _ y executed

theorem exists_step {s : State} (ok : s.namesOk) : ∃ t, Sys2Proof.Machine.step s = .next t := by
  cases h : Sys2Proof.Machine.step s with
  | next t => exact ⟨t, rfl⟩
  | fault f =>
    obtain ⟨noFault, -⟩ := loadedNamesNeverStopTheMachine s ok
    exact absurd h (noFault f)
  | refused x => exact absurd h (step_ne_refused s x)

/-- A step of a tick ends it or uses up one instruction of its budget. -/
theorem StepsTo.leaves_or_counts {s t : State} (h : StepsTo s t) (inv : s.Inv) (tick : s.inTick = true) :
    t.inTick = false ∨ t.stepsLeft < s.stepsLeft := by
  cases h with
  | softStop => exact .inl s.softStop_inTick
  | outside => exact .inl s.fetchOutside_inTick
  | line _ budget r u _ executed =>
    have kept := exec_undisturbed executed
    exact .inr (State.stepsLeft_lt (inv.ic_lt budget) (u.sequence_ic.trans kept.ic)
      (u.sequence_params.trans kept.params))
  | idle noTick | command noTick => exact absurd (tick.symm.trans noTick) (by decide)

theorem run_succ (M : Host.Core) {s t : M.State} (h : M.step s = .next t) (k : Nat) : M.run (k + 1) s = M.run k t := by
  rw [Host.Core.run, h]

theorem runSteps_succ {s t : State} (h : Sys2Proof.Machine.step s = .next t) (k : Nat) :
    runSteps (k + 1) s = runSteps k t :=
  run_succ Sys2Proof.core h k

/-- Settles O50, by induction on the instructions left: each step of the tick ends it or leaves fewer. -/
theorem tickEndsWithinBudget : Obligations.TickEndsWithinBudget := by
  unfold Obligations.TickEndsWithinBudget
  intro s inv ok tick
  change ∃ k t, k ≤ s.stepsLeft + 1 ∧ runSteps k s = .next t ∧ t.inTick = false
  induction left : s.stepsLeft using Nat.strong_induction_on generalizing s with
  | h n ih =>
    obtain ⟨t, hst⟩ := exists_step ok
    have steps := stepsTo_of_step hst
    cases goesOn : t.inTick with
    | false => exact ⟨1, t, by omega, runSteps_succ hst 0, goesOn⟩
    | true =>
      have fewer : t.stepsLeft < s.stepsLeft :=
        (steps.leaves_or_counts inv tick).resolve_left (by simp [goesOn])
      obtain ⟨k, u, hk, run, ended⟩ :=
        ih t.stepsLeft (left ▸ fewer) t (steps.inv inv) (steps.namesOk ok) goesOn rfl
      exact ⟨k + 1, u, by omega, (runSteps_succ hst k).trans run, ended⟩

/-! ### A crashed core stays crashed -/

/-- The commands that leave the crashed state (R1111): `reset`, a load, and the restore of a snapshot. -/
def Command.Revives (c : Command) : Prop :=
  c = .reset ∨ (∃ source, c = .load source) ∨ ∃ snap, c = .restore snap

theorem State.housingWrite_status (s : State) (addr v : F64) : (s.housingWrite addr v).status = s.status := by
  unfold State.housingWrite
  split
  · split <;> rfl
  · rfl

theorem State.housingClear_status (s : State) : s.housingClear.status = s.status := by
  unfold State.housingClear
  split <;> rfl

theorem State.command_crashed_or_revives {s : State} (h : s.status = .crashed) (c : Command) :
    (s.command c).status = .crashed ∨ c.Revives := by
  cases c with
  | runTick now => exact .inl ((congrArg State.status (State.runTick_does_nothing (.inr (.inl h)))).trans h)
  | reset => exact .inr (.inl rfl)
  | load source => exact .inr (.inr (.inl ⟨source, rfl⟩))
  | bind pin handle => exact .inl h
  | restore snap => exact .inr (.inr (.inr ⟨snap, rfl⟩))
  | housingWrite addr v => exact .inl ((s.housingWrite_status addr v).trans h)
  | housingClear => exact .inl (s.housingClear_status.trans h)

/-- Settles O53: between ticks only a command changes the status, and only three of them that of a crashed core. -/
theorem crashedCoreStaysCrashed : Obligations.CrashedCoreStaysCrashed := by
  unfold Obligations.CrashedCoreStaysCrashed
  intro s crashed noTick
  refine ⟨fun now rest next => ?unchanged, fun t hst live => ?revived⟩
  case unchanged =>
    rw [step_of_command noTick next]
    exact congrArg _ (State.runTick_does_nothing (s := { s with commands := rest }) (.inr (.inl crashed)))
  case revived =>
    cases stepsTo_of_step hst with
    | softStop tick | outside tick | line tick => exact absurd (tick.symm.trans noTick) (by decide)
    | idle => exact absurd crashed live
    | command _ c rest next =>
      have hcases := State.command_crashed_or_revives (s := { s with commands := rest }) crashed c
      exact ⟨c, rest, next, hcases.resolve_left live⟩

end Sys2Proof.Machine
end

section
/-! PROOFS. Reset, power-on and snapshots (70_reset_and_hazards.md R1210, R1212, R1214): the state after `reset()` (O51)
and at power-on (O52, O59), and a snapshot restored (O54). -/

namespace Sys2Proof.Machine

/-! ### Reset -/

theorem State.readCell_restart (s : State) (c : Cell) : s.restart.readCell c = F64.zero := by
  unfold State.readCell
  split
  · next i _ => exact Vector.getElem_replicate i.isLt
  · rfl
  · rfl

theorem State.restart_status_of_program {s : State} (h : s.program ≠ none) : s.restart.status = .ready :=
  if_pos (Option.isSome_iff_ne_none.2 h)

theorem State.restart_status_of_no_program {s : State} (h : s.program = none) : s.restart.status = .noProgram :=
  if_neg (by simp [h])

/-- Settles O51: the step takes the host's command, which is `State.restart`. -/
theorem resetClearsTheCore : Obligations.ResetClearsTheCore := by
  unfold Obligations.ResetClearsTheCore
  intro s rest noTick next
  exact ⟨_, step_of_command noTick next, State.readCell_restart _, rfl, fun _ => rfl, rfl, rfl, rfl, rfl, rfl, rfl,
    rfl, State.restart_status_of_program (s := { s with commands := rest }),
    State.restart_status_of_no_program (s := { s with commands := rest }), rfl, rfl, rfl⟩

/-! ### Power-on -/

/-- The power-on state is that of `reset()` with no program (R1212). -/
theorem State.restart_reset : State.reset.restart = State.reset := rfl

/-- Settles O52: at power-on every register cell reads as after `reset()`, and no pin is bound. -/
theorem powerOnState : Obligations.PowerOnState := by
  unfold Obligations.PowerOnState
  exact ⟨rfl, rfl, State.reset.readCell_restart, fun _ => rfl, rfl, rfl, rfl, rfl, rfl, rfl, rfl, rfl, rfl, rfl,
    fun i => Vector.getElem_replicate i.isLt, State.restart_reset⟩

/-- Settles O59: `reset()` leads to a state with the invariant, and at power-on there is no program whose names could be
unsuited. -/
theorem invariantAtReset : Obligations.InvariantAtReset := by
  unfold Obligations.InvariantAtReset
  have inv : State.reset.restart.Inv := .restart State.reset
  exact ⟨State.restart_reset ▸ inv, fun _ installed => nomatch installed⟩

/-! ### Restoring what a snapshot holds -/

/-- A name that a table does not bind is bound at its end. -/
theorem bindIn_of_fresh {α : Type} {t : List (Ident × α)} {n : Ident} (v : α) (fresh : n ∉ t.map (·.1)) :
    bindIn t n v = t ++ [(n, v)] := by
  induction t with
  | nil => rfl
  | cons entry rest ih =>
    obtain ⟨other, absent⟩ := not_or.1 (mt List.mem_cons.2 fresh)
    rw [bindIn, if_neg (Ne.symm other), ih absent, List.cons_append]

theorem bindAll_eq_append {α : Type} {t ps : List (Ident × α)} (h : isMap (t ++ ps)) : bindAll t ps = t ++ ps := by
  induction ps generalizing t with
  | nil => exact (List.append_nil t).symm
  | cons p rest ih =>
    obtain ⟨n, v⟩ := p
    have fresh : n ∉ t.map (·.1) := by
      rw [isMap, List.map_append, List.map_cons] at h
      exact fun hmem => (List.nodup_append.1 h).2.2 n hmem n List.mem_cons_self rfl
    rw [List.append_cons] at h ⊢
    rw [bindAll, bindIn_of_fresh v fresh, ih h]

/-- Binding the entries of a map one by one gives the map. -/
theorem bindAll_nil {α : Type} {ps : List (Ident × α)} (h : isMap ps) : bindAll [] ps = ps := bindAll_eq_append h

/-- A cell above every listed one is listed at the end. -/
theorem Memory.write_of_above {m : Memory} {a : Nat} {v : F64} (above : ∀ cell ∈ m, cell.1 < a)
    (hv : v ≠ Memory.unlisted) : m.write a v = m ++ [(a, v)] := by
  induction m with
  | nil => rw [Memory.write, if_neg hv, List.nil_append]
  | cons cell rest ih =>
    obtain ⟨hcell, hrest⟩ := List.forall_mem_cons.1 above
    rw [Memory.write, if_neg (Nat.lt_asymm hcell), if_neg (Nat.ne_of_gt hcell), ih hrest, List.cons_append]

theorem Memory.writeCells_eq_append {cells : List (Nat × F64)} {m : Memory} {low : Nat}
    (below : ∀ cell ∈ m, cell.1 < low) (h : Memory.wfFrom low cells = true) : m.writeCells cells = m ++ cells := by
  induction cells generalizing m low with
  | nil => exact (List.append_nil m).symm
  | cons cell rest ih =>
    obtain ⟨a, v⟩ := cell
    simp only [Memory.wfFrom, Bool.and_eq_true, decide_eq_true_eq] at h
    obtain ⟨⟨⟨hlow, inside⟩, hv⟩, hrest⟩ := h
    have above : ∀ cell ∈ m, cell.1 < a := fun cell hmem => Nat.lt_of_lt_of_le (below cell hmem) hlow
    have below' : ∀ cell ∈ m ++ [(a, v)], cell.1 < a + 1 := by
      intro cell hmem
      rcases List.mem_append.1 hmem with hmem | hmem
      · exact Nat.lt_succ_of_lt (above cell hmem)
      · obtain rfl := List.mem_singleton.1 hmem
        exact Nat.lt_succ_self a
    rw [Memory.writeCells, if_pos inside, Memory.write_of_above above hv, ih below' hrest, ← List.append_cons]

/-- Writing the listed cells of a canonical memory one by one gives the memory. -/
theorem Memory.writeCells_nil {m : Memory} (h : m.wf = true) : Memory.writeCells [] m = m :=
  Memory.writeCells_eq_append (fun _ hmem => nomatch hmem) h

/-- The tables of a core hold only what lines of its program bind, so that its snapshot is one of the program. -/
theorem State.snapshot_fits {s : State} {program : List Record} (ok : s.namesOk)
    (installed : s.program = some program) : s.snapshot.fits program = true := by
  obtain ⟨-, aliases, defines⟩ := ok program installed
  simp only [Snapshot.fits, Bool.and_eq_true, List.all_eq_true, List.any_eq_true, beq_iff_eq]
  exact ⟨fun entry hmem => aliases entry.1 entry.2 hmem, fun entry hmem => defines entry.1 entry.2 hmem⟩

theorem State.restore_of_fits {u : State} {program : List Record} {snap : Snapshot}
    (installed : u.program = some program) (fits : snap.fits program = true) :
    u.restore snap = { u with
      x := snap.x
      sp := snap.sp
      ra := snap.ra
      pc := snap.pc
      stack := Memory.writeCells [] snap.stack
      aliases := bindAll [] snap.aliases
      defines := bindAll [] snap.defines
      status := .ready
      crashed := false
      error := none
      ic := 0
      resume := none } := by
  simp only [State.restore, installed, fits, if_true]

/-- Settles O54: the snapshot fits the program, and the cells and names restored one by one are those it was taken
of. -/
theorem snapshotRestoresTheCore : Obligations.SnapshotRestoresTheCore := by
  unfold Obligations.SnapshotRestoresTheCore
  intro s u program installed installed' inv ok
  rw [State.restore_of_fits installed' (State.snapshot_fits ok installed)]
  simp only [State.snapshot, Memory.writeCells_nil inv.stack, bindAll_nil inv.aliases, bindAll_nil inv.defines]

end Sys2Proof.Machine
end
